-- ==== Sys2Proof/Word.lean ====
section
/-! DEFINITION. The two word types of the block: a buffer byte and a 32-bit register or command word. -/

namespace Sys2Proof

/-- One byte of `BUF` (10_state.md R41). -/
abbrev Byte := BitVec 8

/-- A register's 32-bit value or a command word (`REG_WIDTH`, `CMD_WIDTH` of 00_scope.md R8). -/
abbrev Word := BitVec 32

end Sys2Proof
end

