-- ==== Sys2Proof/Syntax.lean ====
section
/-! DEFINITION. The fourteen commands of 30_encoding.md R92, one constructor for each row of the opcode table. -/

namespace Sys2Proof

/-- A command, with the operands its word carries (30_encoding.md R91, R93). The other operands are registers. -/
inductive Instr where
  /-- `NOP` (44_system.md R205). -/
  | nop
  /-- `CLRERR` (44_system.md R207). -/
  | clrerr
  /-- `SRST` (44_system.md R209). -/
  | srst
  /-- `CRC16` (40_crc.md R136). -/
  | crc16
  /-- `CRC32` (40_crc.md R137). -/
  | crc32
  /-- `CHK16` (40_crc.md R138). -/
  | chk16
  /-- `CHK32` (40_crc.md R139). -/
  | chk32
  /-- `RDBE n` (41_bigendian.md R150). -/
  | rdbe (n : BitVec 4)
  /-- `WRBE n` (41_bigendian.md R151). -/
  | wrbe (n : BitVec 4)
  /-- `PTM` (42_parse.md R166). -/
  | ptm
  /-- `PAOS` (42_parse.md R172). -/
  | paos
  /-- `PUSLP` (42_parse.md R182). -/
  | puslp
  /-- `TCMK vcid, plen` (43_tcenc.md R191). -/
  | tcmk (vcid : BitVec 6) (plen : BitVec 10)
  /-- `TCENC` (43_tcenc.md R194). -/
  | tcenc
  deriving DecidableEq, Repr

end Sys2Proof
end

