-- ==== Sys2Proof/WellFormed.lean ====
section
/-! DEFINITION. Which command terms a legal command word stands for (30_encoding.md R91, R94). -/

namespace Sys2Proof

/-- A width operand is legal from 1 to 8 (30_encoding.md R91, R94 (c)). -/
abbrev legalWidth (n : BitVec 4) : Prop := 1 ≤ n.toNat ∧ n.toNat ≤ 8

/-- Well-formed: RDBE and WRBE have a legal width. `vcid` and `plen` of TCMK fill their fields, so every value is
legal (R191, R192 (f); a `plen` that is too long is no illegal encoding, R94). -/
def Instr.wf : Instr → Bool
  | .rdbe n => decide (legalWidth n)
  | .wrbe n => decide (legalWidth n)
  | .nop | .clrerr | .srst | .crc16 | .crc32 | .chk16 | .chk32 => true
  | .ptm | .paos | .puslp | .tcmk _ _ | .tcenc => true

end Sys2Proof
end

