-- ==== Sys2Proof/Decode.lean ====
section
/-! DEFINITION. The command word's decoder and encoder, both from 30_encoding.md Part A (R90 to R94). -/

namespace Sys2Proof

/-- Why a command word is illegal: the three cases of 30_encoding.md R94. Each ends in E_ILLCMD. -/
inductive DecodeReject where
  /-- R94 (a): `OP` is not one of the fourteen of R92. -/
  | reservedOpcode
  /-- R94 (b): a must-be-zero bit of the format is 1. -/
  | mustBeZero
  /-- R94 (c): format `W` and `n` is 0 or 9 to 15. -/
  | illegalWidth
  deriving DecidableEq, Repr

/-- `OP`, bits [31:24] (R90). -/
def opField (w : Word) : BitVec 8 := w.extractLsb' 24 8

/-- `IMM`, bits [23:0] (R90). -/
def immField (w : Word) : BitVec 24 := w.extractLsb' 0 24

/-- Formats `Z` and `R`: all of `IMM` must be zero (R91). -/
def decodeBare (imm : BitVec 24) (i : Instr) : Except DecodeReject Instr :=
  if imm = 0#24 then .ok i else .error .mustBeZero

/-- Format `W`: `n` = [3:0], [23:4] must be zero, `n` from 1 to 8 (R91, R94). -/
def decodeWidth (imm : BitVec 24) (i : BitVec 4 → Instr) : Except DecodeReject Instr :=
  if imm.extractLsb' 4 20 = 0#20 then
    if legalWidth (imm.extractLsb' 0 4) then .ok (i (imm.extractLsb' 0 4)) else .error .illegalWidth
  else .error .mustBeZero

/-- Format `M`: `vcid` = [5:0], `plen` = [15:6], [23:16] must be zero (R91). -/
def decodeMake (imm : BitVec 24) : Except DecodeReject Instr :=
  if imm.extractLsb' 16 8 = 0#8 then .ok (.tcmk (imm.extractLsb' 0 6) (imm.extractLsb' 6 10))
  else .error .mustBeZero

/-- Decoding the two fields of a command word: the opcode map of R92, each opcode with its format (R91). -/
def decodeFields (op : BitVec 8) (imm : BitVec 24) : Except DecodeReject Instr :=
  if op = 0x00#8 then decodeBare imm .nop
  else if op = 0x01#8 then decodeBare imm .clrerr
  else if op = 0x02#8 then decodeBare imm .srst
  else if op = 0x10#8 then decodeBare imm .crc16
  else if op = 0x11#8 then decodeBare imm .crc32
  else if op = 0x12#8 then decodeBare imm .chk16
  else if op = 0x13#8 then decodeBare imm .chk32
  else if op = 0x20#8 then decodeWidth imm .rdbe
  else if op = 0x21#8 then decodeWidth imm .wrbe
  else if op = 0x30#8 then decodeBare imm .ptm
  else if op = 0x31#8 then decodeBare imm .paos
  else if op = 0x32#8 then decodeBare imm .puslp
  else if op = 0x40#8 then decodeMake imm
  else if op = 0x41#8 then decodeBare imm .tcenc
  else .error .reservedOpcode

/-- Decoding a command word (R90, R94, R96): total, and every reserved word is rejected by name. -/
def decode (w : Word) : Except DecodeReject Instr := decodeFields (opField w) (immField w)

/-- The command's opcode (the table of R92). -/
def Instr.opcode : Instr → BitVec 8
  | .nop => 0x00#8
  | .clrerr => 0x01#8
  | .srst => 0x02#8
  | .crc16 => 0x10#8
  | .crc32 => 0x11#8
  | .chk16 => 0x12#8
  | .chk32 => 0x13#8
  | .rdbe _ => 0x20#8
  | .wrbe _ => 0x21#8
  | .ptm => 0x30#8
  | .paos => 0x31#8
  | .puslp => 0x32#8
  | .tcmk _ _ => 0x40#8
  | .tcenc => 0x41#8

/-- The command's operand field (the formats of R91). -/
def Instr.imm : Instr → BitVec 24
  | .rdbe n | .wrbe n => 0#20 ++ n
  | .tcmk vcid plen => 0#8 ++ plen ++ vcid
  | .nop | .clrerr | .srst | .crc16 | .crc32 | .chk16 | .chk32 => 0#24
  | .ptm | .paos | .puslp | .tcenc => 0#24

/-- The word of a well-formed command (R90 to R93, R97). -/
def encode (i : Instr) : Word := i.opcode ++ i.imm

/-- The command word that a row of `nbits` bits of the opcode table with the bits `w` stands for. A command is one
32-bit word with no byte layout of its own: it is the data of a write to `CMD` (10_state.md R28, 20_memory.md R64),
so its bits are the table's bits (notes/assumptions/8.md). -/
def tableWord (nbits w : Nat) : Word := BitVec.ofNat 32 (w % 2 ^ nbits)

/-- What the decoder reads from the table's bits `w`. -/
def decodeTableWord (nbits w : Nat) : Option Instr := (decode (tableWord nbits w)).toOption

end Sys2Proof
end

