-- ==== Sys2Proof/Config.lean ====
section
/-! DEFINITION. What an implementation fixes (the OPEN parameters of 00_scope.md R8) and the one free value the
spec leaves: the content of a buffer byte never written since hardware reset. -/

namespace Sys2Proof.Config

/-- The OPEN parameters of 00_scope.md R8. A machine's State carries its own copy, which no step changes, so a
statement about every state is a statement about every value of the parameters (notes/assumptions/2.md). -/
structure Params where
  /-- `BUF_SIZE`: the number of bytes of `BUF` (R8, D4). -/
  bufSize : Nat
  /-- `CRC32_POLY`: the CRC-32 generator without its x^32 term (R8, R133). -/
  crc32Poly : Word
  /-- `CRC32_INIT`: the CRC-32 shift register's preset (R8, R133). -/
  crc32Init : Word
  /-- `CRC32_XOROUT`: the value XORed onto the final CRC-32 (R8, R133). -/
  crc32XorOut : Word
  deriving DecidableEq, Repr

/-- The default values of 00_scope.md R8. -/
def Params.defaults : Params :=
  { bufSize := 2048, crc32Poly := 0x00A00805#32, crc32Init := 0xFFFFFFFF#32, crc32XorOut := 0#32 }

/-- "any integer with 16 <= BUF_SIZE <= 65536" (00_scope.md R8). The three CRC-32 parameters have no range
(notes/assumptions/13.md). -/
abbrev Params.wf (p : Params) : Prop := 16 ≤ p.bufSize ∧ p.bufSize ≤ 65536

/-- FREE VALUE (93_implementation_defined.md U1 "any value"; 10_state.md R47): what the byte at an index reads as
after the hardware reset of that number, as long as nothing has written it. The first argument is
`State.epoch`, the second the buffer index. No body: nothing can be proved of the value
(notes/assumptions/1.md). -/
opaque unwrittenByte : Nat → Nat → Byte

end Sys2Proof.Config
end

