-- ==== Sys2Proof/Machine/State.lean ====
section
/-! DEFINITION. The machine's state as plain data: the registers of 10_state.md R22, the buffer of R41, and the
model's own fields (parameters, reset count, host accesses to come, values returned to the host). -/

namespace Sys2Proof.Machine

open Sys2Proof

/-! ## Error codes -/

/-- The sub-causes of `E_CORRUPT` (60_exceptions.md R222). -/
inductive SubCause where
  /-- `SUB_LENGTH`. -/
  | length
  /-- `SUB_VERSION`. -/
  | version
  /-- `SUB_CRC`. -/
  | crc
  /-- `SUB_FHP`. -/
  | fhp
  deriving DecidableEq, Repr

/-- What an error completion reports: the codes of 60_exceptions.md R220, `E_CORRUPT` with its sub-cause. These are
completions of a command, no faults of the model. -/
inductive Failure where
  /-- `E_CORRUPT(sub)`: a frame or region failed a validation. -/
  | corrupt (sub : SubCause)
  /-- `E_TOOLONG`: a TC frame above the configured or the largest length. -/
  | tooLong
  /-- `E_BOUNDS`: the range does not lie inside `BUF`. -/
  | bounds
  /-- `E_ILLCMD`: an illegal command word. -/
  | illCmd
  /-- `E_CFG`: a parse command found the configuration unusable. -/
  | cfg
  /-- `E_NOFRAME`: TCENC without a TC frame. -/
  | noFrame
  /-- `E_UNSUPP`: a truncated USLP frame. -/
  | unsupp
  deriving DecidableEq, Repr

/-! ## Registers (10_state.md R22), each with exactly the bits of its fields (R21) -/

/-- `STATUS` (10_state.md R25). -/
structure Status where
  err : BitVec 4
  sub : BitVec 4
  rvalid : Bool
  tcvalid : Bool
  deriving DecidableEq, Repr

/-- `CFG` (10_state.md R32). -/
structure Cfg where
  dlErrdet : BitVec 2
  tcCrc : Bool
  aosFhec : Bool
  aosOcf : Bool
  deriving DecidableEq, Repr

/-- `TC_CFG` (10_state.md R35). -/
structure TcCfg where
  scid : BitVec 10
  maxlen : BitVec 11
  deriving DecidableEq, Repr

/-- `TC_CTL` (10_state.md R36). -/
structure TcCtl where
  seq : BitVec 8
  bypass : Bool
  cc : Bool
  deriving DecidableEq, Repr

/-- `R_FLAGS` (10_state.md R38). -/
structure ResultFlags where
  idle : Bool
  ocfp : Bool
  sechdr : Bool
  sync : Bool
  replay : Bool
  vcfcu : Bool
  fhpk : BitVec 2
  fmt : BitVec 2
  deriving DecidableEq, Repr

/-- The parse result registers other than `R_CRC` and `R_CRCRX` (10_state.md R37, R38). -/
structure ParseResult where
  scid : BitVec 16
  vcid : BitVec 6
  mapid : BitVec 4
  flags : ResultFlags
  seqLo : BitVec 32
  seqHi : BitVec 24
  seqw : BitVec 6
  mcfc : BitVec 8
  ocf : BitVec 32
  dstart : BitVec 17
  dend : BitVec 17
  fhp : BitVec 17
  flen : BitVec 17
  deriving DecidableEq, Repr

/-- The TC descriptor registers `TCF_*` (10_state.md R40). -/
structure TcDescriptor where
  base : BitVec 17
  flen : BitVec 11
  vcid : BitVec 6
  crc : Bool
  dstart : BitVec 11
  dend : BitVec 11
  deriving DecidableEq, Repr

/-- `R_FLAGS` = 0. -/
def ResultFlags.zero : ResultFlags := ⟨false, false, false, false, false, false, 0, 0⟩

/-- All parse result registers but `R_CRC` and `R_CRCRX` 0 (42_parse.md R160). -/
def ParseResult.zero : ParseResult := ⟨0, 0, 0, ResultFlags.zero, 0, 0, 0, 0, 0, 0, 0, 0, 0⟩

/-- All `TCF_*` registers 0 (`tc_invalidate` of 43_tcenc.md R191). -/
def TcDescriptor.zero : TcDescriptor := ⟨0, 0, 0, false, 0, 0⟩

/-- Every register of 10_state.md R22 that holds something. `CMD` holds nothing (R28; notes/assumptions/11.md). -/
structure Registers where
  status : Status
  /-- `ERRFLAGS` bits 7:1, bit `k - 1` here is the sticky flag of error code `k` (R26). -/
  errFlags : BitVec 7
  /-- `OFF` (R29). -/
  off : Word
  /-- `LEN` (R30). -/
  len : Word
  /-- `VAL_LO` (R31). -/
  valLo : Word
  /-- `VAL_HI` (R31). -/
  valHi : Word
  cfg : Cfg
  /-- `DL_FRAMELEN.FRAMELEN` (R33). -/
  dlFramelen : BitVec 17
  /-- `AOS_INSERT.INSERT` (R34). -/
  aosInsert : BitVec 16
  tcCfg : TcCfg
  tcCtl : TcCtl
  result : ParseResult
  /-- `R_CRC` (R39). -/
  rCrc : Word
  /-- `R_CRCRX` (R39). -/
  rCrcRx : Word
  tcf : TcDescriptor
  /-- `CNT_CORRUPT` (R27). -/
  cntCorrupt : Word
  deriving DecidableEq, Repr

/-- "After a hardware reset every register of rule R22 holds 0" (10_state.md R46; 70_reset_and_hazards.md R251). -/
def Registers.reset : Registers :=
  { status := ⟨0, 0, false, false⟩
    errFlags := 0
    off := 0, len := 0, valLo := 0, valHi := 0
    cfg := ⟨0, false, false, false⟩
    dlFramelen := 0, aosInsert := 0
    tcCfg := ⟨0, 0⟩, tcCtl := ⟨0, false, false⟩
    result := ParseResult.zero
    rCrc := 0, rCrcRx := 0
    tcf := TcDescriptor.zero
    cntCorrupt := 0 }

/-! ## The buffer -/

/-- The bytes of `BUF` that have been written since the last hardware reset, as pairs of index and byte, indices
strictly rising. An index that is not listed holds no written byte; what it reads as is the free value of
notes/assumptions/1.md (`State.byteAt`). -/
abbrev Memory := List Host.Cell

/-- The canonical form: indices strictly rising and inside a buffer of `size` bytes. -/
abbrev Memory.wf (size : Nat) (m : Memory) : Prop :=
  m.Pairwise (fun p q => p.1 < q.1) ∧ ∀ p ∈ m, p.1 < size

/-! ## What the outside world does at the port -/

/-- The four kinds of host access (20_memory.md R61) and no other: an access of another width, at a misaligned
register address or at an unmapped address cannot be written down (93_implementation_defined.md U2). A register
is named by its word index `f`: its offset, and its host address, is `4 * f`, from 0x00 to 0xFC. -/
inductive HostAccess where
  /-- `RegRead(4 * f)`. -/
  | regRead (f : BitVec 6)
  /-- `RegWrite(4 * f, v)`; with `f = 0` it runs the command word `v`. -/
  | regWrite (f : BitVec 6) (v : Word)
  /-- `BufRead(i)`, `i` from 0 to 65535. -/
  | bufRead (i : BitVec 16)
  /-- `BufWrite(i, v)`, `i` from 0 to 65535. -/
  | bufWrite (i : BitVec 16) (v : Byte)
  deriving DecidableEq, Repr

/-- One thing the outside world does: a host access, or a hardware reset (70_reset_and_hazards.md R250). -/
inductive Input where
  | access (a : HostAccess)
  | hardReset
  deriving DecidableEq, Repr

/-- What a read returned to the host (20_memory.md R61, R64: a word or a byte). -/
inductive Reply where
  | word (v : Word)
  | byte (v : Byte)
  deriving DecidableEq, Repr

/-! ## The state -/

/-- The whole state. `regs` and `buf` are the architectural state of 10_state.md R20; the other four fields are the
model's own (INVENTORY.md, State). -/
structure State where
  /-- The parameters of 00_scope.md R8, fixed for a run (R44). -/
  params : Config.Params
  /-- The registers (R22). -/
  regs : Registers
  /-- The written bytes of `BUF` (R41). -/
  buf : Memory
  /-- How many hardware resets there have been; says which free bytes the unwritten part of `BUF` holds. -/
  epoch : Nat
  /-- What the outside world will do next, oldest first. -/
  inputs : List Input
  /-- What reads have returned, oldest first. -/
  replies : List Reply
  deriving DecidableEq, Repr

/-- Why a step stops with a fault. The spec has no trap (60_exceptions.md R229, R230); the one fault is the
model's own. -/
inductive Fault where
  /-- Raised by TCENC when the descriptor names a frame that does not lie inside `BUF` or is too short for its own
  header and trailer. 43_tcenc.md R194 makes no check there because 10_state.md R48 invariant 4 rules such a
  descriptor out; no run from reset reaches it. Safe: the model stops where the spec gives nothing
  (notes/assumptions/6.md). -/
  | tcFrameOutsideBuffer
  deriving DecidableEq, Repr

/-- Why a step refuses. -/
inductive Refusal where
  /-- Raised by an arm of `exec` for an instruction that has no meaning yet; safe. No arm raises it now. -/
  | notModelled (mnemonic : String)
  deriving DecidableEq, Repr

/-- The machine right after hardware reset (10_state.md R46, R47; 70_reset_and_hazards.md R251): every register 0, no
byte of `BUF` written. The parameters are the defaults of 00_scope.md R8 (notes/assumptions/2.md); the host has
nothing to do yet (notes/assumptions/3.md). -/
def State.reset : State :=
  { params := Config.Params.defaults
    regs := Registers.reset
    buf := []
    epoch := 0
    inputs := []
    replies := [] }

end Sys2Proof.Machine
end

