-- ==== Sys2Proof/Machine/Flags.lean ====
section
/-! DEFINITION. Every code and flag the spec computes: error codes and sub-causes, the sticky flags, and the packed
words of `STATUS`, `ERRFLAGS` and `R_FLAGS`. -/

namespace Sys2Proof.Machine

/-- The value of a sub-cause in `STATUS.SUB` (60_exceptions.md R222). -/
def SubCause.code : SubCause → BitVec 4
  | .length => 1#4
  | .version => 2#4
  | .crc => 3#4
  | .fhp => 4#4

/-- The value of an error in `STATUS.ERR` (60_exceptions.md R220). -/
def Failure.code : Failure → BitVec 4
  | .corrupt _ => 1#4
  | .tooLong => 2#4
  | .bounds => 3#4
  | .illCmd => 4#4
  | .cfg => 5#4
  | .noFrame => 6#4
  | .unsupp => 7#4

/-- The sub-cause an error reports: non-zero only together with `E_CORRUPT` (60_exceptions.md R222). -/
def Failure.sub : Failure → BitVec 4
  | .corrupt c => c.code
  | .tooLong | .bounds | .illCmd | .cfg | .noFrame | .unsupp => 0#4

/-- The error's bit of `ERRFLAGS`, `1 << E` (60_exceptions.md R224); bit 0 of the register is not stored. -/
def Failure.sticky (e : Failure) : BitVec 7 := 1#7 <<< (e.code.toNat - 1)

/-- What the error adds to `CNT_CORRUPT`: 1 for `E_CORRUPT`, else nothing (60_exceptions.md R224, R232). -/
def Failure.count : Failure → Word
  | .corrupt _ => 1#32
  | .tooLong | .bounds | .illCmd | .cfg | .noFrame | .unsupp => 0#32

/-- `STATUS` as a word: [3:0] ERR, [7:4] SUB, [8] RVALID, [9] TCVALID (10_state.md R25). -/
def Status.word (st : Status) : Word :=
  0#22 ++ BitVec.ofBool st.tcvalid ++ BitVec.ofBool st.rvalid ++ st.sub ++ st.err

/-- `ERRFLAGS` as a word: [7:1] the sticky bits, the rest 0 (10_state.md R26). -/
def errFlagsWord (f : BitVec 7) : Word := 0#24 ++ f ++ 0#1

/-- `R_FLAGS` as a word (10_state.md R38; 42_parse.md R186). -/
def ResultFlags.word (f : ResultFlags) : Word :=
  0#22 ++ f.fmt ++ f.fhpk ++ BitVec.ofBool f.vcfcu ++ BitVec.ofBool f.replay ++ BitVec.ofBool f.sync
    ++ BitVec.ofBool f.sechdr ++ BitVec.ofBool f.ocfp ++ BitVec.ofBool f.idle

end Sys2Proof.Machine
end

