-- ==== Sys2Proof/Machine/Ops.lean ====
section
/-! DEFINITION. The named operations over the buffer and the registers: the primitives of 00_scope.md R12, the two
completions of 60_exceptions.md R223 and R224, and the two resets of 70_reset_and_hazards.md R250. -/

namespace Sys2Proof.Machine

/-! ## The buffer -/

/-- The byte written at an index, if one has been written since hardware reset. -/
def Memory.get? (a : Nat) : Memory → Option Byte
  | [] => none
  | (b, v) :: m => if a = b then some v else Memory.get? a m

/-- Writing one byte; keeps the indices strictly rising. -/
def Memory.set (a : Nat) (v : Byte) : Memory → Memory
  | [] => [(a, v)]
  | (b, w) :: m =>
    if a < b then (a, v) :: (b, w) :: m
    else if a = b then (a, v) :: m
    else (b, w) :: Memory.set a v m

/-- `BUF[a]`. Inside `BUF`, the written byte or, where none was written since hardware reset, the free byte of this
index and reset (10_state.md R47, 20_memory.md R75; notes/assumptions/1.md). Beyond `BUF_SIZE` it is 0, as BufRead
returns (20_memory.md R61; notes/assumptions/9.md). -/
def State.byteAt (s : State) (a : Nat) : Byte :=
  if a < s.params.bufSize then (Memory.get? a s.buf).getD (Config.unwrittenByte s.epoch a) else 0#8

/-- `BUF[a] <- v`; beyond `BUF_SIZE` nothing, as BufWrite does (20_memory.md R61). -/
def State.setByte (s : State) (a : Nat) (v : Byte) : State :=
  if a < s.params.bufSize then { s with buf := Memory.set a v s.buf } else s

/-- The `n` bytes `BUF[a], BUF[a+1], ...` in order. -/
def State.bytes (s : State) (a : Nat) : Nat → List Byte
  | 0 => []
  | n + 1 => s.byteAt a :: s.bytes (a + 1) n

/-- `MemRead(a, n)`: the unsigned big-endian integer in the `n` bytes at `a` (00_scope.md R12, 20_memory.md R63). -/
def State.memRead (s : State) (a : Nat) : Nat → Nat
  | 0 => 0
  | n + 1 => (s.byteAt a).toNat * 2 ^ (8 * n) + s.memRead (a + 1) n

/-- `MemWrite(a, n, v)`: the low `n` bytes of `v`, big-endian, at `a` (00_scope.md R12, 20_memory.md R63). -/
def State.memWrite (s : State) (a : Nat) : Nat → Nat → State
  | 0, _ => s
  | n + 1, v => (s.setByte a (BitVec.ofNat 8 (v >>> (8 * n)))).memWrite (a + 1) n v

/-- `for i in 0 .. n-1: BUF[a + i] <- 0` (43_tcenc.md R191). -/
def State.zeroFill (s : State) (a : Nat) : Nat → State
  | 0 => s
  | n + 1 => (s.setByte a 0#8).zeroFill (a + 1) n

/-! ## Completion: the block's exceptions (60_exceptions.md R223, R224) -/

/-- `done`: success (R223). There is nothing else to return from (R229). -/
def State.done (s : State) : State :=
  { s with regs := { s.regs with status := { s.regs.status with err := 0#4, sub := 0#4 } } }

/-- `raise E(sub)`: error completion (R224). `STATUS.ERR` and `STATUS.SUB` name the error, its sticky flag is set,
and `E_CORRUPT` is counted modulo 2^32. Nothing is saved and nothing is redirected. -/
def State.raise (s : State) (e : Failure) : State :=
  { s with regs :=
    { s.regs with
      status := { s.regs.status with err := e.code, sub := e.sub }
      errFlags := s.regs.errFlags ||| e.sticky
      cntCorrupt := s.regs.cntCorrupt + e.count } }

/-! ## Parse results and the TC descriptor -/

/-- What a successful parse reports: the result registers, the CRC computed and the CRC received. -/
structure Parsed where
  result : ParseResult
  computed : Word
  received : Word
  deriving DecidableEq, Repr

/-- `clear_results()` (42_parse.md R160). -/
def State.clearResults (s : State) : State :=
  { s with regs :=
    { s.regs with
      result := ParseResult.zero, rCrc := 0#32, rCrcRx := 0#32
      status := { s.regs.status with rvalid := false } } }

/-- `write_results(...)` (42_parse.md R186). -/
def State.writeResults (s : State) (p : Parsed) : State :=
  { s with regs :=
    { s.regs with
      result := p.result, rCrc := p.computed, rCrcRx := p.received
      status := { s.regs.status with rvalid := true } } }

/-- `tc_invalidate()` (43_tcenc.md R191). -/
def State.tcInvalidate (s : State) : State :=
  { s with regs :=
    { s.regs with
      tcf := TcDescriptor.zero
      status := { s.regs.status with tcvalid := false } } }

/-- Latching a TC descriptor: the `TCF_*` writes of a successful TCMK and `TCVALID <- 1` (43_tcenc.md R191). -/
def State.tcLatch (s : State) (d : TcDescriptor) : State :=
  { s with regs :=
    { s.regs with
      tcf := d
      status := { s.regs.status with tcvalid := true } } }

/-- Writing `R_CRC` and `R_CRCRX` (40_crc.md R136 to R139). -/
def State.setCrc (s : State) (computed received : Word) : State :=
  { s with regs := { s.regs with rCrc := computed, rCrcRx := received } }

/-! ## Resets (70_reset_and_hazards.md R250) -/

/-- Soft reset: every register 0, `BUF` as it was (44_system.md R209; the model's own fields stay,
notes/assumptions/14.md). -/
def State.softReset (s : State) : State := { s with regs := Registers.reset }

/-- Hardware reset: every register 0, every byte of `BUF` unspecified, and not the bytes of an earlier reset
(10_state.md R46, R47; 93_implementation_defined.md U15). -/
def State.hardReset (s : State) : State :=
  { s with regs := Registers.reset, buf := [], epoch := s.epoch + 1 }

end Sys2Proof.Machine
end

