-- ==== Sys2Proof/Machine/Operands.lean ====
section
/-! DEFINITION. Every operand form of a command: the region named by `OFF` and `LEN`, the 64-bit value `VAL`, the
error-detection mode, the frame-local bytes, and the bounds check. -/

namespace Sys2Proof.Machine

/-- The base `o = x[OFF]` (10_state.md R29). -/
def State.base (s : State) : Nat := s.regs.off.toNat

/-- The region's length `n = x[LEN]` (10_state.md R30). -/
def State.length (s : State) : Nat := s.regs.len.toNat

/-- The bounds check fails: `o + n > BUF_SIZE`, on unbounded integers (20_memory.md R66). -/
abbrev State.outside (s : State) (o n : Nat) : Prop := s.params.bufSize < o + n

/-- `VAL = x[VAL_HI] * 2^32 + x[VAL_LO]` (10_state.md R31). -/
def State.val (s : State) : Nat := s.regs.valHi.toNat * 2 ^ 32 + s.regs.valLo.toNat

/-- `b[i]`: the byte at index `i` of the frame at `OFF` (00_scope.md R13). -/
def State.frameByte (s : State) (i : Nat) : Byte := s.byteAt (s.base + i)

/-- The error-detection mode of downlink frames (10_state.md R32; 42_parse.md R161). -/
inductive ErrDet where
  | none
  | crc16
  | crc32
  deriving DecidableEq, Repr

/-- `ed = x[CFG].DL_ERRDET`; the value 3 is reserved and names no mode (42_parse.md R161). -/
def errDetOf (ed : BitVec 2) : Option ErrDet :=
  if ed = 0#2 then some .none
  else if ed = 1#2 then some .crc16
  else if ed = 2#2 then some .crc32
  else Option.none

/-- `c`: the length of the CRC field in bytes (42_parse.md R161). -/
def ErrDet.fieldLength : ErrDet → Nat
  | .none => 0
  | .crc16 => 2
  | .crc32 => 4

end Sys2Proof.Machine
end

