-- ==== Sys2Proof/Machine/BigEndian.lean ====
section
/-! DEFINITION. The big-endian integer commands RDBE and WRBE (41_bigendian.md). -/

namespace Sys2Proof.Machine

/-- `RDBE n` (41_bigendian.md R150). A width that no legal word carries raises E_ILLCMD (30_encoding.md R94;
notes/assumptions/7.md). -/
def execRdbe (n : BitVec 4) (s : State) : Host.Outcome State Fault Refusal :=
  if ¬ legalWidth n then .next (s.raise .illCmd)
  else if s.outside s.base n.toNat then .next (s.raise .bounds)
  else
    let v := s.memRead s.base n.toNat
    .next ({ s with regs :=
      { s.regs with valLo := BitVec.ofNat 32 v, valHi := BitVec.ofNat 32 (v >>> 32) } } : State).done

/-- `WRBE n` (41_bigendian.md R151). A width that no legal word carries raises E_ILLCMD (30_encoding.md R94;
notes/assumptions/7.md). -/
def execWrbe (n : BitVec 4) (s : State) : Host.Outcome State Fault Refusal :=
  if ¬ legalWidth n then .next (s.raise .illCmd)
  else if s.outside s.base n.toNat then .next (s.raise .bounds)
  else .next (s.memWrite s.base n.toNat s.val).done

end Sys2Proof.Machine
end

