-- ==== Sys2Proof/Machine/Crc.lean ====
section
/-! DEFINITION. The CRC functions of 40_crc.md R130 and R133, and the CRC step of the parse commands (42_parse.md
R162). -/

namespace Sys2Proof.Machine

/-- `CRC16_POLY` (00_scope.md R8). -/
def crc16Poly : BitVec 16 := 0x1021#16

/-- `CRC16_INIT` (00_scope.md R8; from general knowledge, notes/assumptions/12.md). -/
def crc16Init : BitVec 16 := 0xFFFF#16

/-- `CRC16_XOROUT` (00_scope.md R8). -/
def crc16XorOut : BitVec 16 := 0x0000#16

/-- `k` rounds of the CRC-16 shift register (40_crc.md R130). -/
def crc16Shift : Nat → BitVec 16 → BitVec 16
  | 0, r => r
  | k + 1, r => crc16Shift k (if r.getLsbD 15 then (r <<< 1) ^^^ crc16Poly else r <<< 1)

/-- One message byte through the CRC-16 shift register (40_crc.md R130). -/
def crc16Byte (r : BitVec 16) (b : Byte) : BitVec 16 := crc16Shift 8 (r ^^^ (b.setWidth 16 <<< 8))

/-- `crc16(bytes)` (40_crc.md R130). -/
def crc16 (bytes : List Byte) : BitVec 16 := bytes.foldl crc16Byte crc16Init ^^^ crc16XorOut

/-- `k` rounds of the CRC-32 shift register with the generator `poly` (40_crc.md R133). -/
def crc32Shift (poly : Word) : Nat → Word → Word
  | 0, r => r
  | k + 1, r => crc32Shift poly k (if r.getLsbD 31 then (r <<< 1) ^^^ poly else r <<< 1)

/-- One message byte through the CRC-32 shift register (40_crc.md R133). -/
def crc32Byte (poly : Word) (r : Word) (b : Byte) : Word := crc32Shift poly 8 (r ^^^ (b.setWidth 32 <<< 24))

/-- `crc32(bytes)` with the parameters of the machine (40_crc.md R133). -/
def crc32 (p : Config.Params) (bytes : List Byte) : Word :=
  bytes.foldl (crc32Byte p.crc32Poly) p.crc32Init ^^^ p.crc32XorOut

/-- The CRC of a byte sequence under an error-detection mode, as the 32-bit value of `R_CRC`: the upper 16 bits are 0
after a CRC-16 (10_state.md R39), and all are 0 with error detection off (42_parse.md R162). -/
def detectionCrc (p : Config.Params) (bytes : List Byte) : ErrDet → Word
  | .none => 0#32
  | .crc16 => (crc16 bytes).setWidth 32
  | .crc32 => crc32 p bytes

/-- `crc_step(flen)` (42_parse.md R162): the CRC of every frame byte before the CRC field (30_encoding.md R112) and the
big-endian value of the field, or E_CORRUPT(SUB_CRC) where they differ. -/
def crcStep (s : State) (ed : ErrDet) (flen : Nat) : Except Failure (Word × Word) :=
  let c := ed.fieldLength
  let computed := detectionCrc s.params (s.bytes s.base (flen - c)) ed
  let received := BitVec.ofNat 32 (s.memRead (s.base + flen - c) c)
  if computed ≠ received then .error (.corrupt .crc) else .ok (computed, received)

end Sys2Proof.Machine
end

