-- ==== Sys2Proof/Machine/CrcCommands.lean ====
section
/-! DEFINITION. The CRC commands CRC16, CRC32, CHK16 and CHK32 (40_crc.md). -/

namespace Sys2Proof.Machine

/-- Computing a CRC over the region, the shape CRC16 and CRC32 share (40_crc.md R136, R137). -/
def computeCrc (f : List Byte → Word) (s : State) : State :=
  if s.outside s.base s.length then s.raise .bounds
  else (s.setCrc (f (s.bytes s.base s.length)) 0#32).done

/-- Checking the trailing CRC field of `c` bytes of the region, the shape CHK16 and CHK32 share (40_crc.md R138,
R139). `R_CRC` and `R_CRCRX` are written before the comparison. -/
def checkCrc (f : List Byte → Word) (c : Nat) (s : State) : State :=
  if s.outside s.base s.length then s.raise .bounds
  else if s.length < c then s.raise (.corrupt .length)
  else
    let computed := f (s.bytes s.base (s.length - c))
    let received := BitVec.ofNat 32 (s.memRead (s.base + s.length - c) c)
    if computed ≠ received then (s.setCrc computed received).raise (.corrupt .crc)
    else (s.setCrc computed received).done

/-- `CRC16` (40_crc.md R136). -/
def execCrc16 (s : State) : Host.Outcome State Fault Refusal :=
  .next (computeCrc (fun m => (crc16 m).setWidth 32) s)

/-- `CRC32` (40_crc.md R137). -/
def execCrc32 (s : State) : Host.Outcome State Fault Refusal := .next (computeCrc (crc32 s.params) s)

/-- `CHK16` (40_crc.md R138). -/
def execChk16 (s : State) : Host.Outcome State Fault Refusal :=
  .next (checkCrc (fun m => (crc16 m).setWidth 32) 2 s)

/-- `CHK32` (40_crc.md R139). -/
def execChk32 (s : State) : Host.Outcome State Fault Refusal := .next (checkCrc (crc32 s.params) 4 s)

end Sys2Proof.Machine
end

