-- ==== Sys2Proof/Machine/Frames.lean ====
section
/-! DEFINITION. The fields of the TM, AOS and USLP primary headers, read from the frame bytes by the tables of
30_encoding.md Part B. -/

namespace Sys2Proof.Machine

/-- `VER_TM` (00_scope.md R8). -/
def verTm : BitVec 2 := 0#2

/-- `VER_AOS` (00_scope.md R8). -/
def verAos : BitVec 2 := 1#2

/-- `VER_USLP` (00_scope.md R8). -/
def verUslp : BitVec 4 := 12#4

/-- `IDLE_VCID`, for AOS and USLP (00_scope.md R8; 42_parse.md R173). -/
def idleVcid : BitVec 6 := 63#6

/-- `TM_FHP_NONE` (00_scope.md R8; 42_parse.md R167). -/
def tmFhpNone : BitVec 11 := 0x7FF#11

/-- `TM_FHP_IDLE` (00_scope.md R8; 42_parse.md R167). -/
def tmFhpIdle : BitVec 11 := 0x7FE#11

/-- The TM primary header (30_encoding.md R101, R102). The three unnamed bits of the data field status are not
interpreted (R119). -/
structure TmHeader where
  version : BitVec 2
  scid : BitVec 10
  vcid : BitVec 3
  ocfp : Bool
  mcfc : BitVec 8
  vcfc : BitVec 8
  sechdr : Bool
  sync : Bool
  fhp : BitVec 11
  deriving DecidableEq, Repr

/-- Reading a TM primary header from the frame bytes `b` (30_encoding.md R101, R102); `b 4 ++ b 5` is `dfs`. -/
def tmHeader (b : Nat → Byte) : TmHeader :=
  { version := (b 0).extractLsb' 6 2
    scid := (b 0).extractLsb' 0 6 ++ (b 1).extractLsb' 4 4
    vcid := (b 1).extractLsb' 1 3
    ocfp := (b 1).getLsbD 0
    mcfc := b 2
    vcfc := b 3
    sechdr := (b 4 ++ b 5).getLsbD 15
    sync := (b 4 ++ b 5).getLsbD 14
    fhp := (b 4 ++ b 5).extractLsb' 0 11 }

/-- The length of the TM secondary header, 0 without one; `b6` is the frame byte 6 (30_encoding.md R103). -/
def tmSecondaryLength (sechdr : Bool) (b6 : Byte) : Nat := if sechdr then b6.toNat % 64 + 1 else 0

/-- The AOS primary header (30_encoding.md R104, R105). The six unnamed signalling bits are not interpreted (R119). -/
structure AosHeader where
  version : BitVec 2
  scid : BitVec 8
  vcid : BitVec 6
  vcfc : BitVec 24
  replay : Bool
  usage : Bool
  deriving DecidableEq, Repr

/-- Reading an AOS primary header from the frame bytes `b` (30_encoding.md R104, R105). -/
def aosHeader (b : Nat → Byte) : AosHeader :=
  { version := (b 0).extractLsb' 6 2
    scid := (b 0).extractLsb' 0 6 ++ (b 1).extractLsb' 6 2
    vcid := (b 1).extractLsb' 0 6
    vcfc := b 2 ++ b 3 ++ b 4
    replay := (b 5).getLsbD 7
    usage := (b 5).getLsbD 6 }

/-- The USLP primary header, bytes 0 to 6 (30_encoding.md R107, R108). Wire bit 20 and bits 7:4 of byte 6 are not
interpreted (R119). -/
structure UslpHeader where
  version : BitVec 4
  scid : BitVec 16
  vcid : BitVec 6
  mapid : BitVec 4
  truncated : Bool
  flenMinusOne : BitVec 16
  ocfp : Bool
  countLength : BitVec 3
  deriving DecidableEq, Repr

/-- Reading a USLP primary header from the frame bytes `b` (30_encoding.md R107, R108). -/
def uslpHeader (b : Nat → Byte) : UslpHeader :=
  { version := (b 0).extractLsb' 4 4
    scid := (b 0).extractLsb' 0 4 ++ b 1 ++ (b 2).extractLsb' 4 4
    vcid := (b 2).extractLsb' 0 3 ++ (b 3).extractLsb' 5 3
    mapid := (b 3).extractLsb' 1 4
    truncated := (b 3).getLsbD 0
    flenMinusOne := b 4 ++ b 5
    ocfp := (b 6).getLsbD 3
    countLength := (b 6).extractLsb' 0 3 }

end Sys2Proof.Machine
end

