-- ==== Sys2Proof/Machine/Parse.lean ====
section
/-! DEFINITION. The downlink parse commands PTM, PAOS and PUSLP (42_parse.md). Each computes what it reports, or the
first check that fails in the order of its pseudocode (R165), from the state as it is; `finishParse` then writes. -/

namespace Sys2Proof.Machine

/-- The end of a parse command: the results were cleared before any check (42_parse.md R160), so a failed parse leaves
them 0; a successful one writes them all (R186). -/
def State.finishParse (s : State) (r : Except Failure Parsed) : State :=
  match r with
  | .error e => s.clearResults.raise e
  | .ok p => (s.clearResults.writeResults p).done

/-- `R_OCF`: the 4 bytes at frame byte `dend` when the frame carries an OCF, else 0 (42_parse.md R163, 30_encoding.md
R113). -/
def ocfAt (s : State) (ocfp : Bool) (dend : Nat) : Word :=
  if ocfp then BitVec.ofNat 32 (s.memRead (s.base + dend) 4) else 0#32

/-! ## TM -/

/-- The TM first header pointer: kind `FHPK`, frame-relative pointer, idle flag (42_parse.md R167). -/
def tmFhp (fhp : BitVec 11) (dstart dend : Nat) : Except Failure (BitVec 2 × Nat × Bool) :=
  if fhp = tmFhpNone then .ok (2#2, 0, false)
  else if fhp = tmFhpIdle then .ok (3#2, 0, true)
  else if dstart + fhp.toNat ≥ dend then .error (.corrupt .fhp)
  else .ok (1#2, dstart + fhp.toNat, false)

/-- The part of PTM after the CRC step: data zone and first header pointer (42_parse.md R166). -/
def tmDataZone (s : State) (h : TmHeader) (n c : Nat) (crcs : Word × Word) : Except Failure Parsed :=
  let q := 4 * h.ocfp.toNat
  let dend := n - c - q
  let dstart := 6 + tmSecondaryLength h.sechdr (s.frameByte 6)
  if n < 6 + q + c then .error (.corrupt .length)
  else if h.sechdr = true ∧ 6 ≥ dend then .error (.corrupt .length)
  else if dstart > dend then .error (.corrupt .length)
  else
    match tmFhp h.fhp dstart dend with
    | .error e => .error e
    | .ok (kind, p, idle) =>
      .ok { result :=
              { scid := h.scid.setWidth 16, vcid := h.vcid.setWidth 6, mapid := 0
                flags := { idle := idle, ocfp := h.ocfp, sechdr := h.sechdr, sync := h.sync, replay := false
                           vcfcu := false, fhpk := kind, fmt := 1 }
                seqLo := h.vcfc.setWidth 32, seqHi := 0, seqw := 8, mcfc := h.mcfc
                ocf := ocfAt s h.ocfp dend
                dstart := BitVec.ofNat 17 dstart, dend := BitVec.ofNat 17 dend, fhp := BitVec.ofNat 17 p
                flen := BitVec.ofNat 17 n }
            computed := crcs.1, received := crcs.2 }

/-- What PTM reports (42_parse.md R166), the checks in its order. -/
def tmParse (s : State) : Except Failure Parsed :=
  match errDetOf s.regs.cfg.dlErrdet with
  | none => .error .cfg
  | some ed =>
    let f := s.regs.dlFramelen.toNat
    let n := s.length
    let c := ed.fieldLength
    let h := tmHeader s.frameByte
    if f = 0 then .error .cfg
    else if s.outside s.base n then .error .bounds
    else if n ≠ f then .error (.corrupt .length)
    else if n < 6 + c then .error (.corrupt .length)
    else if h.version ≠ verTm then .error (.corrupt .version)
    else
      match crcStep s ed n with
      | .error e => .error e
      | .ok crcs => tmDataZone s h n c crcs

/-- `PTM` (42_parse.md R166). -/
def execPtm (s : State) : Host.Outcome State Fault Refusal := .next (s.finishParse (tmParse s))

/-! ## The idle virtual channel -/

/-- What PAOS and PUSLP report of a frame on the idle virtual channel: everything not named is 0 (42_parse.md R173). -/
def idleResult (fmt : BitVec 2) (scid : BitVec 16) (flen : Nat) (crcs : Word × Word) : Parsed :=
  { result := { ParseResult.zero with
      scid := scid, vcid := idleVcid, flags := { ResultFlags.zero with idle := true, fmt := fmt }
      flen := BitVec.ofNat 17 flen }
    computed := crcs.1, received := crcs.2 }

/-! ## AOS -/

/-- The AOS header length with its optional fields (30_encoding.md R106). -/
def aosHeaderLength (s : State) : Nat := 6 + 2 * s.regs.cfg.aosFhec.toNat + s.regs.aosInsert.toNat

/-- The part of PAOS after the CRC step: idle virtual channel, then data zone (42_parse.md R172, R173). -/
def aosDataZone (s : State) (h : AosHeader) (n c : Nat) (crcs : Word × Word) : Except Failure Parsed :=
  let q := 4 * s.regs.cfg.aosOcf.toNat
  let hlen := aosHeaderLength s
  let dend := n - c - q
  if h.vcid = idleVcid then .ok (idleResult 2 (h.scid.setWidth 16) n crcs)
  else if n < hlen + q + c then .error (.corrupt .length)
  else
    .ok { result :=
            { scid := h.scid.setWidth 16, vcid := h.vcid, mapid := 0
              flags := { idle := false, ocfp := s.regs.cfg.aosOcf, sechdr := false, sync := false
                         replay := h.replay, vcfcu := h.usage, fhpk := 0, fmt := 2 }
              seqLo := h.vcfc.setWidth 32, seqHi := 0, seqw := 24, mcfc := 0
              ocf := ocfAt s s.regs.cfg.aosOcf dend
              dstart := BitVec.ofNat 17 hlen, dend := BitVec.ofNat 17 dend, fhp := 0
              flen := BitVec.ofNat 17 n }
          computed := crcs.1, received := crcs.2 }

/-- What PAOS reports (42_parse.md R172), the checks in its order. -/
def aosParse (s : State) : Except Failure Parsed :=
  match errDetOf s.regs.cfg.dlErrdet with
  | none => .error .cfg
  | some ed =>
    let f := s.regs.dlFramelen.toNat
    let n := s.length
    let c := ed.fieldLength
    let h := aosHeader s.frameByte
    if f = 0 then .error .cfg
    else if s.outside s.base n then .error .bounds
    else if n ≠ f then .error (.corrupt .length)
    else if n < 6 + c then .error (.corrupt .length)
    else if h.version ≠ verAos then .error (.corrupt .version)
    else
      match crcStep s ed n with
      | .error e => .error e
      | .ok crcs => aosDataZone s h n c crcs

/-- `PAOS` (42_parse.md R172). -/
def execPaos (s : State) : Host.Outcome State Fault Refusal := .next (s.finishParse (aosParse s))

/-! ## USLP -/

/-- The part of PUSLP after the CRC step: idle virtual channel, then data zone (42_parse.md R182, R173). -/
def uslpDataZone (s : State) (h : UslpHeader) (flen c : Nat) (crcs : Word × Word) : Except Failure Parsed :=
  let cl := h.countLength.toNat
  let q := 4 * h.ocfp.toNat
  let dend := flen - c - q
  let seq := s.memRead (s.base + 7) cl
  if h.vcid = idleVcid then .ok (idleResult 3 h.scid flen crcs)
  else if flen < 7 + cl + q + c then .error (.corrupt .length)
  else
    .ok { result :=
            { scid := h.scid, vcid := h.vcid, mapid := h.mapid
              flags := { idle := false, ocfp := h.ocfp, sechdr := false, sync := false, replay := false
                         vcfcu := false, fhpk := 0, fmt := 3 }
              seqLo := BitVec.ofNat 32 seq, seqHi := BitVec.ofNat 24 (seq >>> 32)
              seqw := BitVec.ofNat 6 (8 * cl), mcfc := 0
              ocf := ocfAt s h.ocfp dend
              dstart := BitVec.ofNat 17 (7 + cl), dend := BitVec.ofNat 17 dend, fhp := 0
              flen := BitVec.ofNat 17 flen }
          computed := crcs.1, received := crcs.2 }

/-- The USLP frame length (42_parse.md R180): with a fixed length configured the declared length must equal the
region's; else the frame is the first `decl` bytes of the region. -/
def uslpFrameLength (f n decl : Nat) : Except Failure Nat :=
  if f ≠ 0 then if decl ≠ n then .error (.corrupt .length) else .ok n
  else if decl > n then .error (.corrupt .length)
  else .ok decl

/-- What PUSLP reports (42_parse.md R182), the checks in its order. -/
def uslpParse (s : State) : Except Failure Parsed :=
  match errDetOf s.regs.cfg.dlErrdet with
  | none => .error .cfg
  | some ed =>
    let f := s.regs.dlFramelen.toNat
    let n := s.length
    let c := ed.fieldLength
    let h := uslpHeader s.frameByte
    if s.outside s.base n then .error .bounds
    else if f ≠ 0 ∧ n ≠ f then .error (.corrupt .length)
    else if n < 4 then .error (.corrupt .length)
    else if h.version ≠ verUslp then .error (.corrupt .version)
    else if h.truncated then .error .unsupp
    else if n < 7 then .error (.corrupt .length)
    else
      match uslpFrameLength f n (h.flenMinusOne.toNat + 1) with
      | .error e => .error e
      | .ok flen =>
        if flen < 7 + c then .error (.corrupt .length)
        else
          match crcStep s ed flen with
          | .error e => .error e
          | .ok crcs => uslpDataZone s h flen c crcs

/-- `PUSLP` (42_parse.md R182). -/
def execPuslp (s : State) : Host.Outcome State Fault Refusal := .next (s.finishParse (uslpParse s))

end Sys2Proof.Machine
end

