-- ==== Sys2Proof/Machine/System.lean ====
section
/-! DEFINITION. The system commands NOP, CLRERR and SRST (44_system.md). -/

namespace Sys2Proof.Machine

/-- `NOP` (44_system.md R205). -/
def execNop (s : State) : Host.Outcome State Fault Refusal := .next s.done

/-- `CLRERR` (44_system.md R207): clears the sticky flags, not `CNT_CORRUPT`. -/
def execClrerr (s : State) : Host.Outcome State Fault Refusal :=
  .next ({ s with regs := { s.regs with errFlags := 0#7 } } : State).done

/-- `SRST` (44_system.md R209): every register 0, `BUF` as it was. -/
def execSrst (s : State) : Host.Outcome State Fault Refusal := .next s.softReset.done

end Sys2Proof.Machine
end

