-- ==== Sys2Proof/Machine/TcFrame.lean ====
section
/-! DEFINITION. The TC frame encoder commands TCMK and TCENC (43_tcenc.md). -/

namespace Sys2Proof.Machine

/-- `TC_HDR_LEN` (00_scope.md R8). -/
def tcHdrLen : Nat := 5

/-- `TC_MAX_FLEN` (00_scope.md R8; 30_encoding.md R115). -/
def tcMaxFlen : Nat := 1024

/-- The length of the TC frame TCMK would make: payload, header and, if configured, trailer (30_encoding.md R115). -/
def tcmkLength (s : State) (plen : BitVec 10) : Nat := plen.toNat + tcHdrLen + 2 * s.regs.cfg.tcCrc.toNat

/-- `TCMK vcid, plen` (43_tcenc.md R191): E_TOOLONG is checked before E_BOUNDS, and either leaves no TC frame. -/
def execTcmk (vcid : BitVec 6) (plen : BitVec 10) (s : State) : Host.Outcome State Fault Refusal :=
  let flen := tcmkLength s plen
  if flen > s.regs.tcCfg.maxlen.toNat ∨ flen > tcMaxFlen then .next (s.tcInvalidate.raise .tooLong)
  else if s.outside s.base flen then .next (s.tcInvalidate.raise .bounds)
  else
    .next ((s.zeroFill s.base flen).tcLatch
      { base := BitVec.ofNat 17 s.base, flen := BitVec.ofNat 11 flen, vcid := vcid, crc := s.regs.cfg.tcCrc
        dstart := BitVec.ofNat 11 tcHdrLen, dend := BitVec.ofNat 11 (tcHdrLen + plen.toNat) }).done

/-- `w0`: bits 15:14 and 11:10 are written 0 (43_tcenc.md R194, 30_encoding.md R114). -/
def tcWord0 (g : Registers) : BitVec 16 :=
  0#2 ++ BitVec.ofBool g.tcCtl.bypass ++ BitVec.ofBool g.tcCtl.cc ++ 0#2 ++ g.tcCfg.scid

/-- `w1`: the virtual channel id and the frame length minus 1 (43_tcenc.md R194, 30_encoding.md R114). -/
def tcWord1 (g : Registers) : BitVec 16 := g.tcf.vcid ++ BitVec.ofNat 10 (g.tcf.flen.toNat - 1)

/-- Writing the five header bytes of the TC frame (43_tcenc.md R194). -/
def tcHeader (s : State) : State :=
  let o := s.regs.tcf.base.toNat
  ((s.memWrite o 2 (tcWord0 s.regs).toNat).memWrite (o + 2) 2 (tcWord1 s.regs).toNat).setByte (o + 4) s.regs.tcCtl.seq

/-- Writing the CRC-16 trailer, computed over the bytes before it as they are now (43_tcenc.md R194). -/
def tcTrailer (s : State) : State :=
  let o := s.regs.tcf.base.toNat
  let flen := s.regs.tcf.flen.toNat
  if s.regs.tcf.crc then s.memWrite (o + flen - 2) 2 (crc16 (s.bytes o (flen - 2))).toNat else s

/-- The descriptor names a frame that lies inside `BUF` and has room for its header and trailer: what 10_state.md R48
invariant 4 says of every descriptor a run can hold. -/
abbrev tcFrameInside (s : State) : Prop :=
  ¬ s.outside s.regs.tcf.base.toNat s.regs.tcf.flen.toNat ∧
    tcHdrLen + 2 * s.regs.tcf.crc.toNat ≤ s.regs.tcf.flen.toNat

/-- `TCENC` (43_tcenc.md R194). The rule makes no bounds check because R48 invariant 4 holds in every state a run
reaches; in any other state the model stops with a fault of its own (notes/assumptions/6.md). -/
def execTcenc (s : State) : Host.Outcome State Fault Refusal :=
  if s.regs.status.tcvalid = false then .next (s.raise .noFrame)
  else if s.regs.tcf.flen.toNat > s.regs.tcCfg.maxlen.toNat then .next (s.raise .tooLong)
  else if ¬ tcFrameInside s then .fault .tcFrameOutsideBuffer
  else .next (tcTrailer (tcHeader s)).done

end Sys2Proof.Machine
end

