-- ==== Sys2Proof/Machine/Dispatch.lean ====
section
/-! DEFINITION. One arm for each command of the opcode table (30_encoding.md R92). -/

namespace Sys2Proof.Machine

def exec (i : Instr) (s : State) : Host.Outcome State Fault Refusal :=
  match i with
  | .nop => Sys2Proof.Machine.execNop s
  | .clrerr => Sys2Proof.Machine.execClrerr s
  | .srst => Sys2Proof.Machine.execSrst s
  | .crc16 => Sys2Proof.Machine.execCrc16 s
  | .crc32 => Sys2Proof.Machine.execCrc32 s
  | .chk16 => Sys2Proof.Machine.execChk16 s
  | .chk32 => Sys2Proof.Machine.execChk32 s
  | .rdbe n => Sys2Proof.Machine.execRdbe n s
  | .wrbe n => Sys2Proof.Machine.execWrbe n s
  | .ptm => Sys2Proof.Machine.execPtm s
  | .paos => Sys2Proof.Machine.execPaos s
  | .puslp => Sys2Proof.Machine.execPuslp s
  | .tcmk vcid plen => Sys2Proof.Machine.execTcmk vcid plen s
  | .tcenc => Sys2Proof.Machine.execTcenc s

end Sys2Proof.Machine
end

