-- ==== Sys2Proof/Machine/Registers.lean ====
section
/-! DEFINITION. The register map of 10_state.md R22: what the host reads at each offset and what its write stores. -/

namespace Sys2Proof.Machine

/-- The 33 registers of 10_state.md R22. -/
inductive Reg where
  | cmd | status | errFlags | off | len | valLo | valHi
  | cfg | dlFramelen | aosInsert | tcCfg | tcCtl
  | rScid | rVcid | rMapid | rFlags | rSeqLo | rSeqHi | rSeqw | rMcfc
  | rOcf | rDstart | rDend | rFhp | rFlen | rCrc | rCrcRx
  | tcfBase | tcfFlen | tcfInfo | tcfDstart | tcfDend
  | cntCorrupt
  deriving DecidableEq, Repr

/-- The registers with their byte offsets (10_state.md R22). -/
def registerMap : List (Nat × Reg) :=
  [(0x00, .cmd), (0x04, .status), (0x08, .errFlags), (0x0C, .off), (0x10, .len), (0x14, .valLo), (0x18, .valHi),
   (0x1C, .cfg), (0x20, .dlFramelen), (0x24, .aosInsert), (0x28, .tcCfg), (0x2C, .tcCtl)]
  ++ [(0x30, .rScid), (0x34, .rVcid), (0x38, .rMapid), (0x3C, .rFlags), (0x40, .rSeqLo), (0x44, .rSeqHi),
   (0x48, .rSeqw), (0x4C, .rMcfc), (0x50, .rOcf), (0x54, .rDstart), (0x58, .rDend), (0x5C, .rFhp), (0x60, .rFlen),
   (0x64, .rCrc), (0x68, .rCrcRx)]
  ++ [(0x6C, .tcfBase), (0x70, .tcfFlen), (0x74, .tcfInfo), (0x78, .tcfDstart), (0x7C, .tcfDend),
   (0x80, .cntCorrupt)]

/-- The register at word index `f`, offset `4 * f`; none at 0x84 to 0xFC (10_state.md R22). -/
def regAt (f : BitVec 6) : Option Reg := registerMap.lookup (4 * f.toNat)

/-- What a host read of the register returns: its fields in their places, reserved bits 0 (10_state.md R21, R22);
`CMD` reads 0 (R28). -/
def Reg.read (r : Reg) (g : Registers) : Word :=
  match r with
  | .cmd => 0#32
  | .status => g.status.word
  | .errFlags => errFlagsWord g.errFlags
  | .off => g.off
  | .len => g.len
  | .valLo => g.valLo
  | .valHi => g.valHi
  | .cfg => 0#27 ++ BitVec.ofBool g.cfg.aosOcf ++ BitVec.ofBool g.cfg.aosFhec ++ BitVec.ofBool g.cfg.tcCrc
      ++ g.cfg.dlErrdet
  | .dlFramelen => 0#15 ++ g.dlFramelen
  | .aosInsert => 0#16 ++ g.aosInsert
  | .tcCfg => 0#5 ++ g.tcCfg.maxlen ++ 0#6 ++ g.tcCfg.scid
  | .tcCtl => 0#22 ++ BitVec.ofBool g.tcCtl.cc ++ BitVec.ofBool g.tcCtl.bypass ++ g.tcCtl.seq
  | .rScid => 0#16 ++ g.result.scid
  | .rVcid => 0#26 ++ g.result.vcid
  | .rMapid => 0#28 ++ g.result.mapid
  | .rFlags => g.result.flags.word
  | .rSeqLo => g.result.seqLo
  | .rSeqHi => 0#8 ++ g.result.seqHi
  | .rSeqw => 0#26 ++ g.result.seqw
  | .rMcfc => 0#24 ++ g.result.mcfc
  | .rOcf => g.result.ocf
  | .rDstart => 0#15 ++ g.result.dstart
  | .rDend => 0#15 ++ g.result.dend
  | .rFhp => 0#15 ++ g.result.fhp
  | .rFlen => 0#15 ++ g.result.flen
  | .rCrc => g.rCrc
  | .rCrcRx => g.rCrcRx
  | .tcfBase => 0#15 ++ g.tcf.base
  | .tcfFlen => 0#21 ++ g.tcf.flen
  | .tcfInfo => 0#23 ++ BitVec.ofBool g.tcf.crc ++ 0#2 ++ g.tcf.vcid
  | .tcfDstart => 0#21 ++ g.tcf.dstart
  | .tcfDend => 0#21 ++ g.tcf.dend
  | .cntCorrupt => g.cntCorrupt

/-- What a host write stores: an `RW` register takes the bits that fall in its fields; a write to an `RO` register
changes nothing; `CMD` stores nothing (10_state.md R21, R22, R28). -/
def Reg.write (r : Reg) (v : Word) (g : Registers) : Registers :=
  match r with
  | .off => { g with off := v }
  | .len => { g with len := v }
  | .valLo => { g with valLo := v }
  | .valHi => { g with valHi := v }
  | .cfg => { g with cfg := ⟨v.extractLsb' 0 2, v.getLsbD 2, v.getLsbD 3, v.getLsbD 4⟩ }
  | .dlFramelen => { g with dlFramelen := v.extractLsb' 0 17 }
  | .aosInsert => { g with aosInsert := v.extractLsb' 0 16 }
  | .tcCfg => { g with tcCfg := ⟨v.extractLsb' 0 10, v.extractLsb' 16 11⟩ }
  | .tcCtl => { g with tcCtl := ⟨v.extractLsb' 0 8, v.getLsbD 8, v.getLsbD 9⟩ }
  | .cmd | .status | .errFlags => g
  | .rScid | .rVcid | .rMapid | .rFlags | .rSeqLo | .rSeqHi | .rSeqw | .rMcfc => g
  | .rOcf | .rDstart | .rDend | .rFhp | .rFlen | .rCrc | .rCrcRx => g
  | .tcfBase | .tcfFlen | .tcfInfo | .tcfDstart | .tcfDend => g
  | .cntCorrupt => g

/-- `RegRead(4 * f)` (20_memory.md R61). -/
def State.regRead (s : State) (f : BitVec 6) : Word :=
  match regAt f with
  | some r => r.read s.regs
  | none => 0#32

/-- `RegWrite(4 * f, v)` for every register but `CMD` (20_memory.md R61). -/
def State.regStore (s : State) (f : BitVec 6) (v : Word) : State :=
  match regAt f with
  | some r => { s with regs := r.write v s.regs }
  | none => s

/-! ## The address map of the port (20_memory.md R60) -/

/-- An access as a bus would put it: a direction, a width and, for a write, the data. -/
inductive BusOp where
  | read8 | read16 | read32
  | write8 (v : BitVec 8)
  | write16 (v : BitVec 16)
  | write32 (v : BitVec 32)
  deriving DecidableEq, Repr

/-- Which of the four accesses of 20_memory.md R61 an access at a 17-bit host byte address is: words in the register
window 0x00000 to 0x000FF, bytes in the buffer window 0x10000 to 0x1FFFF (R60). Any other width, a misaligned
register address and an unmapped address are none of the four, and the model refuses to build the access
(R61; 93_implementation_defined.md U2; notes/assumptions/10.md). -/
def hostAccessAt (a : BitVec 17) (op : BusOp) : Option HostAccess :=
  match op with
  | .read32 =>
    if a.toNat < 0x100 ∧ a.toNat % 4 = 0 then some (.regRead (BitVec.ofNat 6 (a.toNat / 4))) else none
  | .write32 v =>
    if a.toNat < 0x100 ∧ a.toNat % 4 = 0 then some (.regWrite (BitVec.ofNat 6 (a.toNat / 4)) v) else none
  | .read8 => if 0x10000 ≤ a.toNat then some (.bufRead (BitVec.ofNat 16 (a.toNat - 0x10000))) else none
  | .write8 v => if 0x10000 ≤ a.toNat then some (.bufWrite (BitVec.ofNat 16 (a.toNat - 0x10000)) v) else none
  | .read16 | .write16 _ => none

end Sys2Proof.Machine
end

