-- ==== Sys2Proof/Machine/Access.lean ====
section
/-! DEFINITION. The four host accesses of 20_memory.md R61; a write to `CMD` runs a command (30_encoding.md R96). -/

namespace Sys2Proof.Machine

/-- Executing a command word (30_encoding.md R96): an illegal word raises E_ILLCMD, any other runs its command. -/
def runCommand (w : Word) (s : State) : Host.Outcome State Fault Refusal :=
  match decode w with
  | .ok i => exec i s
  | .error _ => .next (s.raise .illCmd)

/-- The access returns a value to the host (20_memory.md R61; notes/assumptions/4.md). -/
def State.reply (s : State) (r : Reply) : State := { s with replies := s.replies ++ [r] }

/-- One host access, whole (20_memory.md R61, R62). -/
def hostAccess (a : HostAccess) (s : State) : Host.Outcome State Fault Refusal :=
  match a with
  | .regRead f => .next (s.reply (.word (s.regRead f)))
  | .regWrite f v => if f = 0#6 then runCommand v s else .next (s.regStore f v)
  | .bufRead i => .next (s.reply (.byte (s.byteAt i.toNat)))
  | .bufWrite i v => .next (s.setByte i.toNat v)

/-- One input of the outside world: a host access or a hardware reset (70_reset_and_hazards.md R250). -/
def takeInput (i : Input) (s : State) : Host.Outcome State Fault Refusal :=
  match i with
  | .access a => hostAccess a s
  | .hardReset => .next s.hardReset

end Sys2Proof.Machine
end

