-- ==== Sys2Proof/Machine/Step.lean ====
section
/-! DEFINITION. One step of the machine: the block takes the oldest input and finishes it (20_memory.md R62). -/

namespace Sys2Proof.Machine

/-- One step. With no input the block does nothing (00_scope.md R6; 70_reset_and_hazards.md R251); else the oldest
input is taken off the list and carried out whole (20_memory.md R62, R70; notes/assumptions/3.md). -/
def step (s : State) : Host.Outcome State Fault Refusal :=
  match s.inputs with
  | [] => .next s
  | i :: rest => takeInput i { s with inputs := rest }

/-- The state in which the host's very next access is the write of this command word to `CMD`. A command is not
fetched from memory: it is the data of that write (10_state.md R28, 20_memory.md R73; notes/assumptions/8.md). -/
def State.withFetchWord (s : State) (nbits w : Nat) : State :=
  { s with inputs := .access (.regWrite 0#6 (tableWord nbits w)) :: s.inputs }

end Sys2Proof.Machine
end

