-- ==== Sys2Proof/Machine/Layout.lean ====
section
/-! DEFINITION. Frames laid out by the tables of 30_encoding.md Part B, read from right to left (42_parse.md R187). The
block has no such encoder for the downlink formats; statements about the parse commands are made with it. -/

namespace Sys2Proof.Machine

/-- The `n` bytes of a wire string of `8 * n` bits, first bit on the wire most significant (00_scope.md R11 (b)). -/
def wireBytes (n : Nat) (w : BitVec (8 * n)) : List Byte :=
  (List.range n).map fun i => w.extractLsb' (8 * (n - 1 - i)) 8

/-- The unsigned big-endian integer of a byte sequence (20_memory.md R63). -/
def bigEndian (bytes : List Byte) : Nat := bytes.foldl (fun acc b => acc * 256 + b.toNat) 0

/-- The CRC field of a frame whose bytes before it are `body` (30_encoding.md R111, R112). -/
def crcField (p : Config.Params) (ed : ErrDet) (body : List Byte) : List Byte :=
  match ed with
  | .none => []
  | .crc16 => wireBytes 2 (crc16 body)
  | .crc32 => wireBytes 4 (crc32 p body)

/-- The OCF field, when present (30_encoding.md R111). -/
def ocfField (ocfp : Bool) (ocf : Word) : List Byte := if ocfp then wireBytes 4 ocf else []

/-- A frame: everything before the CRC field, then the CRC field. -/
def sealed (p : Config.Params) (ed : ErrDet) (body : List Byte) : List Byte := body ++ crcField p ed body

/-- The 6 bytes of a TM primary header, fields in wire order (30_encoding.md R101, R102); `unnamed` are the three bits
the source does not name. -/
def tmHeaderBytes (h : TmHeader) (unnamed : BitVec 3) : List Byte :=
  wireBytes 6 (h.version ++ h.scid ++ h.vcid ++ BitVec.ofBool h.ocfp ++ h.mcfc ++ h.vcfc ++ BitVec.ofBool h.sechdr
    ++ BitVec.ofBool h.sync ++ unnamed ++ h.fhp)

/-- A TM secondary header as the flag announces it: none, or as many bytes as its first byte says (30_encoding.md
R103). -/
def tmSecondaryFits (sechdr : Bool) (sec : List Byte) : Bool :=
  match sec with
  | [] => !sechdr
  | b :: _ => sechdr && sec.length == b.toNat % 64 + 1

/-- The bytes of a TM frame before its CRC field (30_encoding.md R101, R103, R111). -/
def tmBody (h : TmHeader) (unnamed : BitVec 3) (sec data : List Byte) (ocf : Word) : List Byte :=
  tmHeaderBytes h unnamed ++ sec ++ data ++ ocfField h.ocfp ocf

/-- The 6 bytes of an AOS primary header, fields in wire order (30_encoding.md R104, R105). -/
def aosHeaderBytes (h : AosHeader) (unnamed : BitVec 6) : List Byte :=
  wireBytes 6 (h.version ++ h.scid ++ h.vcid ++ h.vcfc ++ BitVec.ofBool h.replay ++ BitVec.ofBool h.usage ++ unnamed)

/-- The bytes of an AOS frame before its CRC field; `skipped` are the header error control and the insert zone
(30_encoding.md R104, R106, R111). -/
def aosBody (h : AosHeader) (unnamed : BitVec 6) (skipped data : List Byte) (ocfp : Bool) (ocf : Word) : List Byte :=
  aosHeaderBytes h unnamed ++ skipped ++ data ++ ocfField ocfp ocf

/-- The first 7 bytes of a USLP primary header, fields in wire order (30_encoding.md R107, R108); `bit20` and `unread`
are the bits that are not interpreted. -/
def uslpHeaderBytes (h : UslpHeader) (bit20 : BitVec 1) (unread : BitVec 4) : List Byte :=
  wireBytes 7 (h.version ++ h.scid ++ bit20 ++ h.vcid ++ h.mapid ++ BitVec.ofBool h.truncated ++ h.flenMinusOne
    ++ unread ++ BitVec.ofBool h.ocfp ++ h.countLength)

/-- The bytes of a USLP frame before its CRC field; `count` is the VC frame count (30_encoding.md R107 to R111). -/
def uslpBody (h : UslpHeader) (bit20 : BitVec 1) (unread : BitVec 4) (count data : List Byte) (ocf : Word) :
    List Byte :=
  uslpHeaderBytes h bit20 unread ++ count ++ data ++ ocfField h.ocfp ocf

/-- The 5 bytes of a TC primary header, fields in wire order, the unnamed bits 0 (30_encoding.md R114). -/
def tcHeaderBytes (bypass cc : Bool) (scid : BitVec 10) (vcid : BitVec 6) (flen : Nat) (seq : BitVec 8) : List Byte :=
  wireBytes 5 (0#2 ++ BitVec.ofBool bypass ++ BitVec.ofBool cc ++ 0#2 ++ scid ++ vcid ++ BitVec.ofNat 10 (flen - 1)
    ++ seq)

end Sys2Proof.Machine
end

