-- ==== Sys2Proof/Safety.lean ====
section
/-! DEFINITION. What a state that a run can hold looks like (10_state.md R48), and what a safe step is. -/

namespace Sys2Proof.Machine

/-- 10_state.md R48, invariants 1 and 2: what the parse result registers hold with `RVALID` 0 and with `RVALID` 1. -/
abbrev ResultInv (g : Registers) : Prop :=
  (g.status.rvalid = false → g.result = ParseResult.zero) ∧
  (g.status.rvalid = true →
    g.result.dstart ≤ g.result.dend ∧ g.result.dend ≤ g.result.flen ∧ g.result.flags.fmt ≠ 0#2 ∧
      (g.result.flags.fhpk = 1#2 → g.result.dstart ≤ g.result.fhp ∧ g.result.fhp < g.result.dend))

/-- 10_state.md R48, invariants 3 and 4: what the TC descriptor holds with `TCVALID` 0 and with `TCVALID` 1. -/
abbrev DescriptorInv (p : Config.Params) (g : Registers) : Prop :=
  (g.status.tcvalid = false → g.tcf = TcDescriptor.zero) ∧
  (g.status.tcvalid = true →
    g.tcf.dstart = 5#11 ∧ 5 ≤ g.tcf.dend.toNat ∧
      g.tcf.flen.toNat = g.tcf.dend.toNat + 2 * g.tcf.crc.toNat ∧ g.tcf.flen.toNat ≤ 1024 ∧
      g.tcf.base.toNat + g.tcf.flen.toNat ≤ p.bufSize)

/-- 10_state.md R48, invariants 5 and 6, and the codes that never occur (60_exceptions.md R220, R222). -/
abbrev StatusInv (g : Registers) : Prop :=
  (g.status.err ≠ 0#4 → (errFlagsWord g.errFlags).getLsbD g.status.err.toNat = true) ∧
  (g.status.sub ≠ 0#4 → g.status.err = 1#4) ∧
  g.status.err.toNat ≤ 7 ∧ g.status.sub.toNat ≤ 4

/-- The machine's invariant: the parameters are in the range of 00_scope.md R8, the buffer is in canonical form, and
the registers satisfy 10_state.md R48. -/
abbrev Inv (s : State) : Prop :=
  Config.Params.wf s.params ∧ Memory.wf s.params.bufSize s.buf ∧
    ResultInv s.regs ∧ DescriptorInv s.params s.regs ∧ StatusInv s.regs

/-- A safe step: the block carries the input out and goes on; it neither stops with a fault nor refuses
(70_reset_and_hazards.md R263; 60_exceptions.md R229). -/
def Safe (s : State) : Prop := ∃ t, step s = .next t

end Sys2Proof.Machine
end

