-- ==== Sys2Proof/Claims.lean ====
section
/-! DEFINITION. The words the statements are made with: what a completion reports, what the parse commands check in the
order of their pseudocode, and a CRC as a polynomial over GF(2). -/

namespace Sys2Proof.Claims

open Sys2Proof.Machine

/-! ## Completions -/

/-- The command goes on to a next state in which `STATUS.ERR` and `STATUS.SUB` have these values. -/
abbrev EndsWith (i : Instr) (s : State) (err sub : BitVec 4) : Prop :=
  ∃ t, exec i s = .next t ∧ t.regs.status.err = err ∧ t.regs.status.sub = sub

/-- An illegal command word, word for word from 30_encoding.md R94 with the formats of R91 and the opcodes of R92:
a reserved `OP`; or a must-be-zero bit of the format; or format `W` with `n` 0 or 9 to 15. -/
abbrev IllegalWord (w : Word) : Prop :=
  let op := w.toNat / 2 ^ 24
  let imm := w.toNat % 2 ^ 24
  op ∉ [0x00, 0x01, 0x02, 0x10, 0x11, 0x12, 0x13, 0x20, 0x21, 0x30, 0x31, 0x32, 0x40, 0x41] ∨
  (op ∈ [0x00, 0x01, 0x02, 0x41, 0x10, 0x11, 0x12, 0x13, 0x30, 0x31, 0x32] ∧ imm ≠ 0) ∨
  (op ∈ [0x20, 0x21] ∧ (imm / 2 ^ 4 ≠ 0 ∨ imm % 2 ^ 4 = 0 ∨ 9 ≤ imm % 2 ^ 4)) ∨
  (op = 0x40 ∧ imm / 2 ^ 16 ≠ 0)

/-- The state after an illegal command word: `STATUS.ERR`, `STATUS.SUB` and `ERRFLAGS` report E_ILLCMD and nothing else
differs (30_encoding.md R94; 60_exceptions.md R221, R224). -/
def afterIllegalWord (s : State) : State :=
  { s with regs := { s.regs with
    status := { s.regs.status with err := 4#4, sub := 0#4 }
    errFlags := s.regs.errFlags ||| 0b0001000#7 } }

/-! ## Registers the host may write -/

/-- The bits of an `RW` register that belong to a field, by its offset (10_state.md R22); 0 for every other offset. -/
def fieldMask (f : BitVec 6) : Word :=
  (([(0x0C, 0xFFFFFFFF#32), (0x10, 0xFFFFFFFF#32), (0x14, 0xFFFFFFFF#32), (0x18, 0xFFFFFFFF#32), (0x1C, 0x1F#32),
     (0x20, 0x1FFFF#32), (0x24, 0xFFFF#32), (0x28, 0x07FF03FF#32), (0x2C, 0x3FF#32)] : List (Nat × Word)).lookup
       (4 * f.toNat)).getD 0#32

/-! ## What a parse command checks -/

/-- The length of the CRC field by `DL_ERRDET`, for the values 0, 1 and 2 (42_parse.md R161). -/
def crcLength (ed : BitVec 2) : Nat := if ed = 1#2 then 2 else if ed = 2#2 then 4 else 0

/-- The CRC that `DL_ERRDET` selects over `n` bytes at `o`, 0 with error detection off (42_parse.md R162). -/
def selectedCrc (s : State) (ed : BitVec 2) (o n : Nat) : Nat :=
  if ed = 1#2 then (crc16 (s.bytes o n)).toNat else if ed = 2#2 then (crc32 s.params (s.bytes o n)).toNat else 0

/-- The CRC over the frame minus its CRC field differs from the field (42_parse.md R162, 30_encoding.md R112). -/
abbrev CrcMismatch (s : State) (ed : BitVec 2) (o flen : Nat) : Prop :=
  selectedCrc s ed o (flen - crcLength ed) ≠ bigEndian (s.bytes (o + flen - crcLength ed) (crcLength ed))

/-- `ERR` and `SUB` of PTM: the first failing check of 42_parse.md R166, in its order, on the frame's bytes as
numbers. -/
def ptmOutcome (s : State) : BitVec 4 × BitVec 4 :=
  let ed := s.regs.cfg.dlErrdet
  let f := s.regs.dlFramelen.toNat
  let o := s.regs.off.toNat
  let n := s.regs.len.toNat
  let c := crcLength ed
  let b := fun i => (s.byteAt (o + i)).toNat
  let q := 4 * (b 1 % 2)
  let dfs := b 4 * 256 + b 5
  let shl := if dfs / 2 ^ 15 = 1 then b 6 % 64 + 1 else 0
  let fhp := dfs % 2 ^ 11
  if ed = 3#2 then (5, 0)
  else if f = 0 then (5, 0)
  else if s.params.bufSize < o + n then (3, 0)
  else if n ≠ f then (1, 1)
  else if n < 6 + c then (1, 1)
  else if b 0 / 64 ≠ 0 then (1, 2)
  else if CrcMismatch s ed o n then (1, 3)
  else if n < 6 + q + c then (1, 1)
  else if dfs / 2 ^ 15 = 1 ∧ 6 ≥ n - c - q then (1, 1)
  else if 6 + shl > n - c - q then (1, 1)
  else if fhp ≠ 0x7FF ∧ fhp ≠ 0x7FE ∧ 6 + shl + fhp ≥ n - c - q then (1, 4)
  else (0, 0)

/-- `ERR` and `SUB` of PAOS: the first failing check of 42_parse.md R172, in its order. -/
def paosOutcome (s : State) : BitVec 4 × BitVec 4 :=
  let ed := s.regs.cfg.dlErrdet
  let f := s.regs.dlFramelen.toNat
  let o := s.regs.off.toNat
  let n := s.regs.len.toNat
  let c := crcLength ed
  let b := fun i => (s.byteAt (o + i)).toNat
  let hlen := 6 + 2 * s.regs.cfg.aosFhec.toNat + s.regs.aosInsert.toNat
  let q := 4 * s.regs.cfg.aosOcf.toNat
  if ed = 3#2 then (5, 0)
  else if f = 0 then (5, 0)
  else if s.params.bufSize < o + n then (3, 0)
  else if n ≠ f then (1, 1)
  else if n < 6 + c then (1, 1)
  else if b 0 / 64 ≠ 1 then (1, 2)
  else if CrcMismatch s ed o n then (1, 3)
  else if b 1 % 64 = 63 then (0, 0)
  else if n < hlen + q + c then (1, 1)
  else (0, 0)

/-- `ERR` and `SUB` of PUSLP: the first failing check of 42_parse.md R182, in its order. -/
def puslpOutcome (s : State) : BitVec 4 × BitVec 4 :=
  let ed := s.regs.cfg.dlErrdet
  let f := s.regs.dlFramelen.toNat
  let o := s.regs.off.toNat
  let n := s.regs.len.toNat
  let c := crcLength ed
  let b := fun i => (s.byteAt (o + i)).toNat
  let decl := b 4 * 256 + b 5 + 1
  let flen := if f ≠ 0 then n else decl
  let q := 4 * (b 6 / 8 % 2)
  let cl := b 6 % 8
  if ed = 3#2 then (5, 0)
  else if s.params.bufSize < o + n then (3, 0)
  else if f ≠ 0 ∧ n ≠ f then (1, 1)
  else if n < 4 then (1, 1)
  else if b 0 / 16 ≠ 12 then (1, 2)
  else if b 3 % 2 = 1 then (7, 0)
  else if n < 7 then (1, 1)
  else if f ≠ 0 ∧ decl ≠ n then (1, 1)
  else if f = 0 ∧ decl > n then (1, 1)
  else if flen < 7 + c then (1, 1)
  else if CrcMismatch s ed o flen then (1, 3)
  else if b 2 % 8 * 8 + b 3 / 32 = 63 then (0, 0)
  else if flen < 7 + cl + q + c then (1, 1)
  else (0, 0)

/-! ## A CRC as a polynomial remainder over GF(2) -/

/-- The polynomial whose coefficient of `X ^ i` is bit `i`. -/
noncomputable def bitPoly {w : Nat} (v : BitVec w) : Polynomial (ZMod 2) :=
  ∑ i ∈ Finset.range w, if v.getLsbD i then Polynomial.X ^ i else 0

/-- The message polynomial of a byte sequence: first byte first, each byte's most significant bit first (40_crc.md
R130). -/
noncomputable def messagePoly (bytes : List Byte) : Polynomial (ZMod 2) :=
  bytes.foldl (fun acc b => acc * Polynomial.X ^ 8 + bitPoly b) 0

end Sys2Proof.Claims
end

