-- ==== Sys2Proof/Certificates/Slice0/Obligations.lean ====
section
/-! DEFINITION. The statements for the provers. -/

open Sys2Proof Sys2Proof.Machine Sys2Proof.Claims

/-! ## Encoding -/

/-- Every well-formed command survives encoding and decoding, with every operand at every value its field admits
(30_encoding.md R90 to R93). -/
def Obligations.DecodeInvertsEncode : Prop :=
  ∀ i : Instr, i.wf = true → decode (encode i) = .ok i

/-- Every word the decoder accepts is the encoding of the well-formed command it reads: no word executes as another
(30_encoding.md R94). -/
def Obligations.EncodeInvertsDecode : Prop :=
  ∀ (w : Word) (i : Instr), decode w = .ok i → i.wf = true ∧ encode i = w

/-- 30_encoding.md R94: a `CMD` write of an illegal word ends with E_ILLCMD and changes nothing but `STATUS.ERR`,
`STATUS.SUB` and `ERRFLAGS`; every other word is a command and runs it. A `plen` that makes the frame too long is no
illegal word: TCMK reports it. -/
def Obligations.IllegalWordsRaiseIllcmdAndChangeNothingElse : Prop :=
  (∀ (s : State) (w : Word) (rest : List Input), s.inputs = .access (.regWrite 0#6 w) :: rest →
    (IllegalWord w → step s = .next (afterIllegalWord { s with inputs := rest })) ∧
    (¬ IllegalWord w →
      ∃ i, i.wf = true ∧ decode w = .ok i ∧ step s = exec i { s with inputs := rest })) ∧
  ∀ (s : State) (vcid : BitVec 6) (plen : BitVec 10),
    let flen := plen.toNat + 5 + 2 * s.regs.cfg.tcCrc.toNat
    (s.regs.tcCfg.maxlen.toNat < flen ∨ 1024 < flen) →
      ¬ IllegalWord (0x40#8 ++ 0#8 ++ plen ++ vcid) ∧ EndsWith (.tcmk vcid plen) s 2#4 0#4

/-- Words written out from 30_encoding.md R91 to R93 and R97, one or more of every family. -/
def Obligations.WrittenOutWordsDecodeToTheirCommands : Prop :=
  decode 0x00000000#32 = .ok .nop ∧ decode 0x02000000#32 = .ok .srst ∧
  decode 0x10000000#32 = .ok .crc16 ∧ decode 0x13000000#32 = .ok .chk32 ∧
  decode 0x20000003#32 = .ok (.rdbe 3#4) ∧ decode 0x21000008#32 = .ok (.wrbe 8#4) ∧
  decode 0x30000000#32 = .ok .ptm ∧ decode 0x32000000#32 = .ok .puslp ∧
  decode 0x40000283#32 = .ok (.tcmk 3#6 10#10) ∧ decode 0x4000FFFF#32 = .ok (.tcmk 63#6 1023#10) ∧
  decode 0x41000000#32 = .ok .tcenc

/-! ## The host port -/

/-- A `CMD` write whose word decodes to a command: the step is that command's `exec` with the write taken off the
inputs, and nothing around it (10_state.md R28, 30_encoding.md R96). -/
def Obligations.StepRunsTheDecodedCommand : Prop :=
  ∀ (s : State) (w : Word) (i : Instr) (rest : List Input),
    s.inputs = .access (.regWrite 0#6 w) :: rest → decode w = .ok i → step s = exec i { s with inputs := rest }

/-- The block does nothing without a host access (00_scope.md R6). That such a step is a step at all is the model's
choice (notes/assumptions/3.md). -/
def Obligations.StepWithoutInputChangesNothing : Prop :=
  ∀ s : State, s.inputs = [] → step s = .next s

/-- A register read and a buffer read answer with the value and change nothing else (20_memory.md R61, R67); a buffer
index from `BUF_SIZE` on reads 0, and so do `CMD` and the offsets 0x84 to 0xFC (R61). The list of replies is the model's
own (notes/assumptions/4.md). -/
def Obligations.HostReadsAnswerAndChangeNothing : Prop :=
  (∀ (s : State) (f : BitVec 6) (rest : List Input), s.inputs = .access (.regRead f) :: rest →
    step s = .next { s with inputs := rest, replies := s.replies ++ [.word (s.regRead f)] }) ∧
  (∀ (s : State) (i : BitVec 16) (rest : List Input), s.inputs = .access (.bufRead i) :: rest →
    step s = .next { s with inputs := rest, replies := s.replies ++ [.byte (s.byteAt i.toNat)] }) ∧
  (∀ (s : State) (i : BitVec 16), s.params.bufSize ≤ i.toNat → s.byteAt i.toNat = 0#8) ∧
  (∀ (s : State) (f : BitVec 6), (f = 0#6 ∨ 0x84 ≤ 4 * f.toNat) → s.regRead f = 0#32)

/-- Where every field of every register stands in the word the host reads (10_state.md R22, R25 to R27, R29 to R40): no
other bit is ever 1. -/
def Obligations.RegistersReadTheirFieldsInPlace : Prop :=
  ∀ s : State,
    let g := s.regs
    let r := g.result
    let fl := r.flags
    let word := fun f => (s.regRead f).toNat
    (word 1 = g.status.err.toNat + 2 ^ 4 * g.status.sub.toNat + 2 ^ 8 * g.status.rvalid.toNat
      + 2 ^ 9 * g.status.tcvalid.toNat ∧ word 2 = 2 * g.errFlags.toNat) ∧
    (word 3 = g.off.toNat ∧ word 4 = g.len.toNat ∧ word 5 = g.valLo.toNat ∧ word 6 = g.valHi.toNat) ∧
    (word 7 = g.cfg.dlErrdet.toNat + 2 ^ 2 * g.cfg.tcCrc.toNat + 2 ^ 3 * g.cfg.aosFhec.toNat
      + 2 ^ 4 * g.cfg.aosOcf.toNat ∧ word 8 = g.dlFramelen.toNat ∧ word 9 = g.aosInsert.toNat ∧
      word 10 = g.tcCfg.scid.toNat + 2 ^ 16 * g.tcCfg.maxlen.toNat ∧
      word 11 = g.tcCtl.seq.toNat + 2 ^ 8 * g.tcCtl.bypass.toNat + 2 ^ 9 * g.tcCtl.cc.toNat) ∧
    (word 12 = r.scid.toNat ∧ word 13 = r.vcid.toNat ∧ word 14 = r.mapid.toNat ∧
      word 15 = fl.idle.toNat + 2 * fl.ocfp.toNat + 2 ^ 2 * fl.sechdr.toNat + 2 ^ 3 * fl.sync.toNat
        + 2 ^ 4 * fl.replay.toNat + 2 ^ 5 * fl.vcfcu.toNat + 2 ^ 6 * fl.fhpk.toNat + 2 ^ 8 * fl.fmt.toNat) ∧
    (word 16 = r.seqLo.toNat ∧ word 17 = r.seqHi.toNat ∧ word 18 = r.seqw.toNat ∧ word 19 = r.mcfc.toNat ∧
      word 20 = r.ocf.toNat ∧ word 21 = r.dstart.toNat ∧ word 22 = r.dend.toNat ∧ word 23 = r.fhp.toNat ∧
      word 24 = r.flen.toNat ∧ word 25 = g.rCrc.toNat ∧ word 26 = g.rCrcRx.toNat) ∧
    (word 27 = g.tcf.base.toNat ∧ word 28 = g.tcf.flen.toNat ∧
      word 29 = g.tcf.vcid.toNat + 2 ^ 8 * g.tcf.crc.toNat ∧ word 30 = g.tcf.dstart.toNat ∧
      word 31 = g.tcf.dend.toNat ∧ word 32 = g.cntCorrupt.toNat) ∧
    (word 0 = 0 ∧ ∀ f : BitVec 6, 33 ≤ f.toNat → word f = 0)

/-- A write to a register other than `CMD` stores the bits that fall in the fields of an `RW` register and nothing else;
it changes no other register, no `RO` register and no buffer byte (10_state.md R21, 20_memory.md R61). -/
def Obligations.RegisterWriteStoresExactlyTheFieldBits : Prop :=
  ∀ (s : State) (f : BitVec 6) (v : Word), f ≠ 0#6 →
    ∃ t, hostAccess (.regWrite f v) s = .next t ∧
      (∀ g, t.regRead g = if g = f ∧ fieldMask f ≠ 0#32 then v &&& fieldMask f else s.regRead g) ∧
      t.params = s.params ∧ t.buf = s.buf ∧ t.epoch = s.epoch ∧ t.inputs = s.inputs ∧ t.replies = s.replies

/-- A buffer write changes the byte at its index when the index is below `BUF_SIZE`, and nothing else
(20_memory.md R61). -/
def Obligations.BufferWriteChangesOneByte : Prop :=
  ∀ (s : State) (i : BitVec 16) (v : Byte),
    ∃ t, hostAccess (.bufWrite i v) s = .next t ∧
      (∀ a, t.byteAt a = if a = i.toNat ∧ a < s.params.bufSize then v else s.byteAt a) ∧
      t.regs = s.regs ∧ t.params = s.params ∧ t.epoch = s.epoch ∧ t.inputs = s.inputs ∧ t.replies = s.replies

/-- "A host access that is not a CMD write causes no completion and never changes STATUS, ERRFLAGS or CNT_CORRUPT"
(60_exceptions.md R225). -/
def Obligations.AccessesOtherThanCmdWritesCompleteNothing : Prop :=
  ∀ (s : State) (a : HostAccess), (∀ w, a ≠ .regWrite 0#6 w) →
    ∃ t, hostAccess a s = .next t ∧ t.regs.status = s.regs.status ∧ t.regs.errFlags = s.regs.errFlags ∧
      t.regs.cntCorrupt = s.regs.cntCorrupt

/-- The address map of the port (20_memory.md R60): a word access is an access to the register at that offset, a byte
access one to the buffer byte, and no other address or width is an access. -/
def Obligations.AddressMapHasTwoWindows : Prop :=
  ∀ (a : BitVec 17) (h : HostAccess),
    (hostAccessAt a .read32 = some h ↔ ∃ f : BitVec 6, a.toNat = 4 * f.toNat ∧ h = .regRead f) ∧
    (∀ v, hostAccessAt a (.write32 v) = some h ↔ ∃ f : BitVec 6, a.toNat = 4 * f.toNat ∧ h = .regWrite f v) ∧
    (hostAccessAt a .read8 = some h ↔ ∃ i : BitVec 16, a.toNat = 0x10000 + i.toNat ∧ h = .bufRead i) ∧
    (∀ v, hostAccessAt a (.write8 v) = some h ↔ ∃ i : BitVec 16, a.toNat = 0x10000 + i.toNat ∧ h = .bufWrite i v) ∧
    hostAccessAt a .read16 ≠ some h ∧ (∀ v, hostAccessAt a (.write16 v) ≠ some h)

/-! ## System commands -/

/-- NOP (44_system.md R205): it clears the two error fields and nothing else; with a must-be-zero bit it is E_ILLCMD. -/
def Obligations.NopOnlyClearsTheErrorFields : Prop :=
  decode 0x00000000#32 = .ok .nop ∧
  (∀ (s : State) (w : Word), w.toNat / 2 ^ 24 = 0x00 → w.toNat % 2 ^ 24 ≠ 0 →
    runCommand w s = .next (afterIllegalWord s)) ∧
  ∀ s : State, exec .nop s =
    .next { s with regs := { s.regs with status := { s.regs.status with err := 0#4, sub := 0#4 } } }

/-- CLRERR (44_system.md R207): `CNT_CORRUPT` and everything but `ERRFLAGS`, `STATUS.ERR` and `STATUS.SUB` stay; with
a must-be-zero bit it is E_ILLCMD. -/
def Obligations.ClrerrClearsOnlyTheStickyFlags : Prop :=
  decode 0x01000000#32 = .ok .clrerr ∧
  (∀ (s : State) (w : Word), w.toNat / 2 ^ 24 = 0x01 → w.toNat % 2 ^ 24 ≠ 0 →
    runCommand w s = .next (afterIllegalWord s)) ∧
  ∀ s : State, exec .clrerr s =
    .next { s with regs := { s.regs with
      errFlags := 0#7, status := { s.regs.status with err := 0#4, sub := 0#4 } } }

/-- SRST (44_system.md R209): every register reads 0 afterwards, as after a hardware reset, and the buffer is left alone;
with a must-be-zero bit it is E_ILLCMD and nothing is reset. (That the parameters, the inputs and the replies stay is the
frame of the model's own fields, notes/assumptions/14.md.) -/
def Obligations.SrstClearsEveryRegisterAndKeepsTheBuffer : Prop :=
  decode 0x02000000#32 = .ok .srst ∧
  (∀ (s : State) (w : Word), w.toNat / 2 ^ 24 = 0x02 → w.toNat % 2 ^ 24 ≠ 0 →
    runCommand w s = .next (afterIllegalWord s)) ∧
  ∀ s : State, ∃ t, exec .srst s = .next t ∧ (∀ f, t.regRead f = 0#32) ∧ t.regs = s.hardReset.regs ∧
    (∀ a, t.byteAt a = s.byteAt a) ∧
    t.buf = s.buf ∧ t.params = s.params ∧ t.epoch = s.epoch ∧ t.inputs = s.inputs ∧ t.replies = s.replies

/-! ## CRC commands -/

/-- CRC16 (40_crc.md R136). -/
def Obligations.Crc16ReportsTheCrcOfTheRegion : Prop :=
  decode 0x10000000#32 = .ok .crc16 ∧
  ∀ s : State,
    (s.regs.off.toNat + s.regs.len.toNat ≤ s.params.bufSize →
      exec .crc16 s = .next { s with regs := { s.regs with
        rCrc := 0#16 ++ crc16 (s.bytes s.regs.off.toNat s.regs.len.toNat), rCrcRx := 0#32
        status := { s.regs.status with err := 0#4, sub := 0#4 } } }) ∧
    (s.params.bufSize < s.regs.off.toNat + s.regs.len.toNat →
      exec .crc16 s = .next { s with regs := { s.regs with
        status := { s.regs.status with err := 3#4, sub := 0#4 }
        errFlags := s.regs.errFlags ||| 0b0000100#7 } })

/-- CRC32 (40_crc.md R137), for every value of the three CRC-32 parameters. -/
def Obligations.Crc32ReportsTheCrcOfTheRegion : Prop :=
  decode 0x11000000#32 = .ok .crc32 ∧
  ∀ s : State,
    (s.regs.off.toNat + s.regs.len.toNat ≤ s.params.bufSize →
      exec .crc32 s = .next { s with regs := { s.regs with
        rCrc := crc32 s.params (s.bytes s.regs.off.toNat s.regs.len.toNat), rCrcRx := 0#32
        status := { s.regs.status with err := 0#4, sub := 0#4 } } }) ∧
    (s.params.bufSize < s.regs.off.toNat + s.regs.len.toNat →
      exec .crc32 s = .next { s with regs := { s.regs with
        status := { s.regs.status with err := 3#4, sub := 0#4 }
        errFlags := s.regs.errFlags ||| 0b0000100#7 } })

/-- CHK16 (40_crc.md R138): the four ways it ends, in the order of its checks. -/
def Obligations.Chk16ComparesTheTrailingField : Prop :=
  decode 0x12000000#32 = .ok .chk16 ∧
  ∀ s : State,
    let o := s.regs.off.toNat
    let n := s.regs.len.toNat
    let computed : Word := 0#16 ++ crc16 (s.bytes o (n - 2))
    let received : Word := BitVec.ofNat 32 (bigEndian (s.bytes (o + n - 2) 2))
    (s.params.bufSize < o + n →
      exec .chk16 s = .next { s with regs := { s.regs with
        status := { s.regs.status with err := 3#4, sub := 0#4 }
        errFlags := s.regs.errFlags ||| 0b0000100#7 } }) ∧
    (o + n ≤ s.params.bufSize → n < 2 →
      exec .chk16 s = .next { s with regs := { s.regs with
        status := { s.regs.status with err := 1#4, sub := 1#4 }
        errFlags := s.regs.errFlags ||| 0b0000001#7
        cntCorrupt := s.regs.cntCorrupt + 1#32 } }) ∧
    (o + n ≤ s.params.bufSize → 2 ≤ n → computed ≠ received →
      exec .chk16 s = .next { s with regs := { s.regs with
        rCrc := computed, rCrcRx := received
        status := { s.regs.status with err := 1#4, sub := 3#4 }
        errFlags := s.regs.errFlags ||| 0b0000001#7
        cntCorrupt := s.regs.cntCorrupt + 1#32 } }) ∧
    (o + n ≤ s.params.bufSize → 2 ≤ n → computed = received →
      exec .chk16 s = .next { s with regs := { s.regs with
        rCrc := computed, rCrcRx := received
        status := { s.regs.status with err := 0#4, sub := 0#4 } } })

/-- CHK32 (40_crc.md R139): the four ways it ends, for every value of the three CRC-32 parameters. -/
def Obligations.Chk32ComparesTheTrailingField : Prop :=
  decode 0x13000000#32 = .ok .chk32 ∧
  ∀ s : State,
    let o := s.regs.off.toNat
    let n := s.regs.len.toNat
    let computed : Word := crc32 s.params (s.bytes o (n - 4))
    let received : Word := BitVec.ofNat 32 (bigEndian (s.bytes (o + n - 4) 4))
    (s.params.bufSize < o + n →
      exec .chk32 s = .next { s with regs := { s.regs with
        status := { s.regs.status with err := 3#4, sub := 0#4 }
        errFlags := s.regs.errFlags ||| 0b0000100#7 } }) ∧
    (o + n ≤ s.params.bufSize → n < 4 →
      exec .chk32 s = .next { s with regs := { s.regs with
        status := { s.regs.status with err := 1#4, sub := 1#4 }
        errFlags := s.regs.errFlags ||| 0b0000001#7
        cntCorrupt := s.regs.cntCorrupt + 1#32 } }) ∧
    (o + n ≤ s.params.bufSize → 4 ≤ n → computed ≠ received →
      exec .chk32 s = .next { s with regs := { s.regs with
        rCrc := computed, rCrcRx := received
        status := { s.regs.status with err := 1#4, sub := 3#4 }
        errFlags := s.regs.errFlags ||| 0b0000001#7
        cntCorrupt := s.regs.cntCorrupt + 1#32 } }) ∧
    (o + n ≤ s.params.bufSize → 4 ≤ n → computed = received →
      exec .chk32 s = .next { s with regs := { s.regs with
        rCrc := computed, rCrcRx := received
        status := { s.regs.status with err := 0#4, sub := 0#4 } } })

/-- 40_crc.md R130: `crc16` is the remainder over GF(2) of the message polynomial times x^16 divided by
x^16 + x^12 + x^5 + 1; the preset 0xFFFF stands in front of the message (it is shifted up by the message's length
before the division); the final XOR is 0. -/
def Obligations.Crc16IsThePolynomialRemainder : Prop :=
  ∀ bytes : List Byte,
    bitPoly (crc16 bytes) =
      (messagePoly bytes * Polynomial.X ^ 16 + bitPoly 0xFFFF#16 * Polynomial.X ^ (8 * bytes.length)) %ₘ
        (Polynomial.X ^ 16 + Polynomial.X ^ 12 + Polynomial.X ^ 5 + 1)

/-- 40_crc.md R133: the same scheme at width 32 with the three parameters of the machine, and their defaults. -/
def Obligations.Crc32IsThePolynomialRemainder : Prop :=
  (bitPoly Config.Params.defaults.crc32Poly =
      Polynomial.X ^ 23 + Polynomial.X ^ 21 + Polynomial.X ^ 11 + Polynomial.X ^ 2 + 1 ∧
    Config.Params.defaults.crc32Init = 0xFFFFFFFF#32 ∧ Config.Params.defaults.crc32XorOut = 0#32) ∧
  ∀ (p : Config.Params) (bytes : List Byte),
    bitPoly (crc32 p bytes ^^^ p.crc32XorOut) =
      (messagePoly bytes * Polynomial.X ^ 32 + bitPoly p.crc32Init * Polynomial.X ^ (8 * bytes.length)) %ₘ
        (Polynomial.X ^ 32 + bitPoly p.crc32Poly)

/-- 40_crc.md R131: the table, and the residue of every byte sequence followed by its CRC-16. -/
def Obligations.Crc16TableAndResidue : Prop :=
  (crc16 [] = 0xFFFF#16 ∧ crc16 [0x00#8] = 0xE1F0#16 ∧ crc16 [0x01#8] = 0xF1D1#16 ∧ crc16 [0x80#8] = 0x7078#16 ∧
    crc16 [0xFF#8] = 0xFF00#16 ∧ crc16 [0x41#8] = 0xB915#16 ∧ crc16 [0#8, 0#8] = 0x1D0F#16 ∧
    crc16 [0#8, 0#8, 0#8, 0#8] = 0x84C0#16 ∧
    crc16 [0x31#8, 0x32#8, 0x33#8, 0x34#8, 0x35#8, 0x36#8, 0x37#8, 0x38#8, 0x39#8] = 0x29B1#16) ∧
  ∀ m : List Byte, crc16 (m ++ wireBytes 2 (crc16 m)) = 0#16

/-- 40_crc.md R134: the table with the default parameters, and the residue of every byte sequence followed by its
CRC-32 for every generator and preset with `CRC32_XOROUT` 0; with another `CRC32_XOROUT` the residue is still one
constant. (That this constant is never 0, R134's last sentence, is not stated: it does not follow from R133 for every
generator.) -/
def Obligations.Crc32TableAndResidue : Prop :=
  (let crc := crc32 Config.Params.defaults
   crc [] = 0xFFFFFFFF#32 ∧ crc [0x00#8] = 0x9F980403#32 ∧ crc [0x01#8] = 0x9F380C06#32 ∧
    crc [0x80#8] = 0xCF9C0683#32 ∧ crc [0xFF#8] = 0xFFFFFF00#32 ∧ crc [0x41#8] = 0xB73A0D46#32 ∧
    crc [0#8, 0#8] = 0xC460F9E3#32 ∧ crc [0#8, 0#8, 0#8, 0#8] = 0x71800472#32 ∧
    crc [0xFF#8, 0xFF#8, 0xFF#8, 0xFF#8] = 0#32 ∧
    crc [0x31#8, 0x32#8, 0x33#8, 0x34#8, 0x35#8, 0x36#8, 0x37#8, 0x38#8, 0x39#8] = 0x92393BE9#32) ∧
  (∀ (p : Config.Params) (m : List Byte), p.crc32XorOut = 0#32 → crc32 p (m ++ wireBytes 4 (crc32 p m)) = 0#32) ∧
  ∀ p : Config.Params, ∃ c, ∀ m : List Byte, crc32 p (m ++ wireBytes 4 (crc32 p m)) = c

/-! ## Big-endian integers -/

/-- RDBE (41_bigendian.md R150): the value read is the big-endian integer of the bytes, zero-extended to 64 bits; a
word with an illegal width or a must-be-zero bit is E_ILLCMD, a range outside the buffer E_BOUNDS, and both leave
`VAL`. -/
def Obligations.RdbeReadsTheBigEndianInteger : Prop :=
  (∀ n : BitVec 4, 1 ≤ n.toNat → n.toNat ≤ 8 → decode (0x20000000#32 ||| n.setWidth 32) = .ok (.rdbe n)) ∧
  (∀ (s : State) (w : Word), w.toNat / 2 ^ 24 = 0x20 →
    (w.toNat % 2 ^ 24 / 2 ^ 4 ≠ 0 ∨ w.toNat % 2 ^ 4 = 0 ∨ 9 ≤ w.toNat % 2 ^ 4) →
    runCommand w s = .next (afterIllegalWord s)) ∧
  ∀ (s : State) (n : BitVec 4),
    let o := s.regs.off.toNat
    let v := bigEndian (s.bytes o n.toNat)
    (1 ≤ n.toNat → n.toNat ≤ 8 → o + n.toNat ≤ s.params.bufSize →
      exec (.rdbe n) s = .next { s with regs := { s.regs with
        valLo := BitVec.ofNat 32 (v % 2 ^ 32), valHi := BitVec.ofNat 32 (v / 2 ^ 32)
        status := { s.regs.status with err := 0#4, sub := 0#4 } } }) ∧
    (1 ≤ n.toNat → n.toNat ≤ 8 → s.params.bufSize < o + n.toNat →
      exec (.rdbe n) s = .next { s with regs := { s.regs with
        status := { s.regs.status with err := 3#4, sub := 0#4 }
        errFlags := s.regs.errFlags ||| 0b0000100#7 } })

/-- WRBE (41_bigendian.md R151): byte `o + i` becomes `(VAL >> (8 * (n - 1 - i))) mod 256` for `i` below `n`, and every
other byte reads as before; the errors write no byte. A word with an illegal width or a must-be-zero bit is E_ILLCMD. -/
def Obligations.WrbeWritesTheLowBytesBigEndian : Prop :=
  (∀ n : BitVec 4, 1 ≤ n.toNat → n.toNat ≤ 8 → decode (0x21000000#32 ||| n.setWidth 32) = .ok (.wrbe n)) ∧
  (∀ (s : State) (w : Word), w.toNat / 2 ^ 24 = 0x21 →
    (w.toNat % 2 ^ 24 / 2 ^ 4 ≠ 0 ∨ w.toNat % 2 ^ 4 = 0 ∨ 9 ≤ w.toNat % 2 ^ 4) →
    runCommand w s = .next (afterIllegalWord s)) ∧
  ∀ (s : State) (n : BitVec 4),
    let o := s.regs.off.toNat
    let v := s.regs.valHi.toNat * 2 ^ 32 + s.regs.valLo.toNat
    (1 ≤ n.toNat → n.toNat ≤ 8 → o + n.toNat ≤ s.params.bufSize →
      ∃ t, exec (.wrbe n) s = .next t ∧
        (∀ a, t.byteAt a =
          if o ≤ a ∧ a < o + n.toNat then BitVec.ofNat 8 (v / 2 ^ (8 * (n.toNat - 1 - (a - o))) % 256)
          else s.byteAt a) ∧
        t.regs = { s.regs with status := { s.regs.status with err := 0#4, sub := 0#4 } } ∧
        t.params = s.params ∧ t.epoch = s.epoch ∧ t.inputs = s.inputs ∧ t.replies = s.replies) ∧
    (1 ≤ n.toNat → n.toNat ≤ 8 → s.params.bufSize < o + n.toNat →
      exec (.wrbe n) s = .next { s with regs := { s.regs with
        status := { s.regs.status with err := 3#4, sub := 0#4 }
        errFlags := s.regs.errFlags ||| 0b0000100#7 } })

/-- The model's own choice (notes/assumptions/7.md): RDBE and WRBE terms with a width that no legal word carries, which
the decoder never gives, also end with E_ILLCMD and change nothing else. -/
def Obligations.WidthsOfNoLegalWordRaiseIllcmd : Prop :=
  ∀ (s : State) (n : BitVec 4), n.toNat = 0 ∨ 9 ≤ n.toNat →
    exec (.rdbe n) s = .next (afterIllegalWord s) ∧ exec (.wrbe n) s = .next (afterIllegalWord s) ∧
    ∀ w, decode w ≠ .ok (.rdbe n) ∧ decode w ≠ .ok (.wrbe n)

/-- 41_bigendian.md R152: writing and reading back leaves `VAL`; reading and writing back leaves every byte. -/
def Obligations.BigEndianRoundTrip : Prop :=
  ∀ (s : State) (n : BitVec 4), 1 ≤ n.toNat → n.toNat ≤ 8 → s.regs.off.toNat + n.toNat ≤ s.params.bufSize →
    (s.regs.valHi.toNat * 2 ^ 32 + s.regs.valLo.toNat < 2 ^ (8 * n.toNat) →
      ∃ t u, exec (.wrbe n) s = .next t ∧ exec (.rdbe n) t = .next u ∧
        u.regs.valHi = s.regs.valHi ∧ u.regs.valLo = s.regs.valLo) ∧
    (∃ t u, exec (.rdbe n) s = .next t ∧ exec (.wrbe n) t = .next u ∧ ∀ a, u.byteAt a = s.byteAt a)

/-! ## Parsing -/

/-- 42_parse.md R160: a parse command always completes; after an error completion every parse result register is 0 and
`RVALID` is 0, after a success `RVALID` is 1; the buffer and every register a parse command does not own stay. An
illegal word is no parse command and changes no result register. -/
def Obligations.ParseErrorsLeaveNoPartialResult : Prop :=
  (∀ (s : State) (w : Word), IllegalWord w →
    ∃ t, runCommand w s = .next t ∧ t.regs.result = s.regs.result ∧ t.regs.rCrc = s.regs.rCrc ∧
      t.regs.rCrcRx = s.regs.rCrcRx ∧ t.regs.status.rvalid = s.regs.status.rvalid) ∧
  ∀ (s : State) (i : Instr), i = .ptm ∨ i = .paos ∨ i = .puslp →
    ∃ t, exec i s = .next t ∧
      (t.regs.status.err ≠ 0#4 →
        t.regs.result = ParseResult.zero ∧ t.regs.rCrc = 0#32 ∧ t.regs.rCrcRx = 0#32 ∧
          t.regs.status.rvalid = false ∧ ∀ f : BitVec 6, 0x30 ≤ 4 * f.toNat → 4 * f.toNat ≤ 0x68 → t.regRead f = 0#32) ∧
      (t.regs.status.err = 0#4 → t.regs.status.rvalid = true) ∧
      t = { s with regs := { s.regs with
        status := { t.regs.status with tcvalid := s.regs.status.tcvalid }
        errFlags := t.regs.errFlags, cntCorrupt := t.regs.cntCorrupt
        result := t.regs.result, rCrc := t.regs.rCrc, rCrcRx := t.regs.rCrcRx } }

/-- PTM ends as the first failing check of 42_parse.md R166 says, in the order of R165, with R167 for the pointer. -/
def Obligations.PtmReportsTheFirstFailingCheck : Prop :=
  ∀ s : State, EndsWith .ptm s (ptmOutcome s).1 (ptmOutcome s).2

/-- PAOS ends as the first failing check of 42_parse.md R172 says, in the order of R165. -/
def Obligations.PaosReportsTheFirstFailingCheck : Prop :=
  ∀ s : State, EndsWith .paos s (paosOutcome s).1 (paosOutcome s).2

/-- PUSLP ends as the first failing check of 42_parse.md R182 says, in the order of R165 (R180 for the lengths, R181
for truncated frames). -/
def Obligations.PuslpReportsTheFirstFailingCheck : Prop :=
  ∀ s : State, EndsWith .puslp s (puslpOutcome s).1 (puslpOutcome s).2

/-- A TM frame laid out by 30_encoding.md R101 to R103 and R111 with a correct CRC field: PTM reports exactly its fields
(42_parse.md R187, R166, R167), whatever the unnamed bits and the secondary header hold. -/
def Obligations.PtmReportsEveryFieldOfALaidOutFrame : Prop :=
  ∀ (s : State) (ed : ErrDet) (h : TmHeader) (unnamed : BitVec 3) (sec data : List Byte) (ocf : Word),
    let body := tmBody h unnamed sec data ocf
    let frame := sealed s.params ed body
    let sentinel := h.fhp = 0x7FF#11 ∨ h.fhp = 0x7FE#11
    errDetOf s.regs.cfg.dlErrdet = some ed → h.version = 0#2 → tmSecondaryFits h.sechdr sec = true →
    (sentinel ∨ h.fhp.toNat < data.length) →
    s.regs.dlFramelen.toNat = frame.length → s.regs.len.toNat = frame.length →
    s.regs.off.toNat + frame.length ≤ s.params.bufSize → s.bytes s.regs.off.toNat frame.length = frame →
    exec .ptm s = .next { s with regs := { s.regs with
      status := { s.regs.status with err := 0#4, sub := 0#4, rvalid := true }
      rCrc := detectionCrc s.params body ed, rCrcRx := detectionCrc s.params body ed
      result :=
        { scid := 0#6 ++ h.scid, vcid := 0#3 ++ h.vcid, mapid := 0#4
          flags := { idle := decide (h.fhp = 0x7FE#11), ocfp := h.ocfp, sechdr := h.sechdr, sync := h.sync
                     replay := false, vcfcu := false
                     fhpk := if h.fhp = 0x7FF#11 then 2#2 else if h.fhp = 0x7FE#11 then 3#2 else 1#2
                     fmt := 1#2 }
          seqLo := 0#24 ++ h.vcfc, seqHi := 0#24, seqw := 8#6, mcfc := h.mcfc
          ocf := if h.ocfp then ocf else 0#32
          dstart := BitVec.ofNat 17 (6 + sec.length)
          dend := BitVec.ofNat 17 (6 + sec.length + data.length)
          fhp := if sentinel then 0#17 else BitVec.ofNat 17 (6 + sec.length + h.fhp.toNat)
          flen := BitVec.ofNat 17 frame.length } } }

/-- An AOS frame laid out by 30_encoding.md R104 to R106 and R111 with a correct CRC field, not on the idle virtual
channel: PAOS reports exactly its fields (42_parse.md R187, R172); the header error control and the insert zone are
skipped. -/
def Obligations.PaosReportsEveryFieldOfALaidOutFrame : Prop :=
  ∀ (s : State) (ed : ErrDet) (h : AosHeader) (unnamed : BitVec 6) (skipped data : List Byte) (ocf : Word),
    let ocfp := s.regs.cfg.aosOcf
    let body := aosBody h unnamed skipped data ocfp ocf
    let frame := sealed s.params ed body
    errDetOf s.regs.cfg.dlErrdet = some ed → h.version = 1#2 → h.vcid ≠ 63#6 →
    skipped.length = 2 * s.regs.cfg.aosFhec.toNat + s.regs.aosInsert.toNat →
    s.regs.dlFramelen.toNat = frame.length → s.regs.len.toNat = frame.length →
    s.regs.off.toNat + frame.length ≤ s.params.bufSize → s.bytes s.regs.off.toNat frame.length = frame →
    exec .paos s = .next { s with regs := { s.regs with
      status := { s.regs.status with err := 0#4, sub := 0#4, rvalid := true }
      rCrc := detectionCrc s.params body ed, rCrcRx := detectionCrc s.params body ed
      result :=
        { scid := 0#8 ++ h.scid, vcid := h.vcid, mapid := 0#4
          flags := { idle := false, ocfp := ocfp, sechdr := false, sync := false
                     replay := h.replay, vcfcu := h.usage, fhpk := 0#2, fmt := 2#2 }
          seqLo := 0#8 ++ h.vcfc, seqHi := 0#24, seqw := 24#6, mcfc := 0#8
          ocf := if ocfp then ocf else 0#32
          dstart := BitVec.ofNat 17 (6 + skipped.length)
          dend := BitVec.ofNat 17 (6 + skipped.length + data.length)
          fhp := 0#17
          flen := BitVec.ofNat 17 frame.length } } }

/-- A USLP frame laid out by 30_encoding.md R107 to R111 with a correct CRC field, not truncated, not on the idle virtual
channel: PUSLP reports exactly its fields (42_parse.md R187, R182). With a fixed length configured the region is the
frame; with none the frame is its first bytes (R180). -/
def Obligations.PuslpReportsEveryFieldOfALaidOutFrame : Prop :=
  ∀ (s : State) (ed : ErrDet) (h : UslpHeader) (bit20 : BitVec 1) (unread : BitVec 4) (count data : List Byte)
    (ocf : Word),
    let body := uslpBody h bit20 unread count data ocf
    let frame := sealed s.params ed body
    errDetOf s.regs.cfg.dlErrdet = some ed → h.version = 12#4 → h.truncated = false → h.vcid ≠ 63#6 →
    count.length = h.countLength.toNat → h.flenMinusOne.toNat + 1 = frame.length →
    (s.regs.dlFramelen.toNat = frame.length ∧ s.regs.len.toNat = frame.length ∨
      s.regs.dlFramelen.toNat = 0 ∧ frame.length ≤ s.regs.len.toNat) →
    s.regs.off.toNat + s.regs.len.toNat ≤ s.params.bufSize → s.bytes s.regs.off.toNat frame.length = frame →
    exec .puslp s = .next { s with regs := { s.regs with
      status := { s.regs.status with err := 0#4, sub := 0#4, rvalid := true }
      rCrc := detectionCrc s.params body ed, rCrcRx := detectionCrc s.params body ed
      result :=
        { scid := h.scid, vcid := h.vcid, mapid := h.mapid
          flags := { idle := false, ocfp := h.ocfp, sechdr := false, sync := false
                     replay := false, vcfcu := false, fhpk := 0#2, fmt := 3#2 }
          seqLo := BitVec.ofNat 32 (bigEndian count % 2 ^ 32), seqHi := BitVec.ofNat 24 (bigEndian count / 2 ^ 32)
          seqw := BitVec.ofNat 6 (8 * count.length), mcfc := 0#8
          ocf := if h.ocfp then ocf else 0#32
          dstart := BitVec.ofNat 17 (7 + count.length)
          dend := BitVec.ofNat 17 (7 + count.length + data.length)
          fhp := 0#17
          flen := BitVec.ofNat 17 frame.length } } }

/-- 42_parse.md R173 for AOS: an intact frame on virtual channel 63 ends at once with success, whatever the bytes after
its primary header and whatever the optional header fields configured; everything not named is 0. -/
def Obligations.PaosReportsIdleFramesWithoutFurtherParsing : Prop :=
  ∀ (s : State) (ed : ErrDet) (h : AosHeader) (unnamed : BitVec 6) (rest : List Byte),
    let body := aosHeaderBytes h unnamed ++ rest
    let frame := sealed s.params ed body
    errDetOf s.regs.cfg.dlErrdet = some ed → h.version = 1#2 → h.vcid = 63#6 →
    s.regs.dlFramelen.toNat = frame.length → s.regs.len.toNat = frame.length →
    s.regs.off.toNat + frame.length ≤ s.params.bufSize → s.bytes s.regs.off.toNat frame.length = frame →
    exec .paos s = .next { s with regs := { s.regs with
      status := { s.regs.status with err := 0#4, sub := 0#4, rvalid := true }
      rCrc := detectionCrc s.params body ed, rCrcRx := detectionCrc s.params body ed
      result := { ParseResult.zero with
        scid := 0#8 ++ h.scid, vcid := 63#6
        flags := { ResultFlags.zero with idle := true, fmt := 2#2 }
        flen := BitVec.ofNat 17 frame.length } } }

/-- 42_parse.md R173 for USLP. -/
def Obligations.PuslpReportsIdleFramesWithoutFurtherParsing : Prop :=
  ∀ (s : State) (ed : ErrDet) (h : UslpHeader) (bit20 : BitVec 1) (unread : BitVec 4) (rest : List Byte),
    let body := uslpHeaderBytes h bit20 unread ++ rest
    let frame := sealed s.params ed body
    errDetOf s.regs.cfg.dlErrdet = some ed → h.version = 12#4 → h.truncated = false → h.vcid = 63#6 →
    h.flenMinusOne.toNat + 1 = frame.length →
    (s.regs.dlFramelen.toNat = frame.length ∧ s.regs.len.toNat = frame.length ∨
      s.regs.dlFramelen.toNat = 0 ∧ frame.length ≤ s.regs.len.toNat) →
    s.regs.off.toNat + s.regs.len.toNat ≤ s.params.bufSize → s.bytes s.regs.off.toNat frame.length = frame →
    exec .puslp s = .next { s with regs := { s.regs with
      status := { s.regs.status with err := 0#4, sub := 0#4, rvalid := true }
      rCrc := detectionCrc s.params body ed, rCrcRx := detectionCrc s.params body ed
      result := { ParseResult.zero with
        scid := h.scid, vcid := 63#6
        flags := { ResultFlags.zero with idle := true, fmt := 3#2 }
        flen := BitVec.ofNat 17 frame.length } } }

/-- Results are frame-relative and come from the region alone (42_parse.md R163, 10_state.md R45): two machines whose
regions hold the same bytes, wherever they lie and whatever else the machines hold, under the same length,
configuration and CRC-32 parameters, get the same outcome and the same parse result registers. -/
def Obligations.ParseOutcomeDependsOnTheRegionBytesOnly : Prop :=
  ∀ (i : Instr) (s t : State), i = .ptm ∨ i = .paos ∨ i = .puslp →
    s.regs.len = t.regs.len → s.regs.cfg = t.regs.cfg → s.regs.dlFramelen = t.regs.dlFramelen →
    s.regs.aosInsert = t.regs.aosInsert →
    s.params.crc32Poly = t.params.crc32Poly → s.params.crc32Init = t.params.crc32Init →
    s.params.crc32XorOut = t.params.crc32XorOut →
    s.regs.off.toNat + s.regs.len.toNat ≤ s.params.bufSize →
    t.regs.off.toNat + t.regs.len.toNat ≤ t.params.bufSize →
    s.bytes s.regs.off.toNat s.regs.len.toNat = t.bytes t.regs.off.toNat t.regs.len.toNat →
    ∃ s' t', exec i s = .next s' ∧ exec i t = .next t' ∧
      s'.regs.status.err = t'.regs.status.err ∧ s'.regs.status.sub = t'.regs.status.sub ∧
      s'.regs.status.rvalid = t'.regs.status.rvalid ∧ s'.regs.result = t'.regs.result ∧
      s'.regs.rCrc = t'.regs.rCrc ∧ s'.regs.rCrcRx = t'.regs.rCrcRx

/-! ## TC frames -/

/-- TCMK (43_tcenc.md R191): E_TOOLONG before E_BOUNDS, each of which leaves no TC frame and writes no byte; else the
frame's bytes are 0, no other byte changes, and the descriptor is latched. A malformed word is E_ILLCMD and leaves the
descriptor. -/
def Obligations.TcmkMakesAZeroedFrameOrNone : Prop :=
  (∀ (vcid : BitVec 6) (plen : BitVec 10),
    decode (0x40#8 ++ 0#8 ++ plen ++ vcid) = .ok (.tcmk vcid plen)) ∧
  (∀ (s : State) (w : Word), w.toNat / 2 ^ 24 = 0x40 → w.toNat % 2 ^ 24 / 2 ^ 16 ≠ 0 →
    runCommand w s = .next (afterIllegalWord s)) ∧
  ∀ (s : State) (vcid : BitVec 6) (plen : BitVec 10),
    let o := s.regs.off.toNat
    let flen := plen.toNat + 5 + 2 * s.regs.cfg.tcCrc.toNat
    (s.regs.tcCfg.maxlen.toNat < flen ∨ 1024 < flen →
      exec (.tcmk vcid plen) s = .next { s with regs := { s.regs with
        status := { s.regs.status with err := 2#4, sub := 0#4, tcvalid := false }
        errFlags := s.regs.errFlags ||| 0b0000010#7, tcf := TcDescriptor.zero } }) ∧
    (flen ≤ s.regs.tcCfg.maxlen.toNat → flen ≤ 1024 → s.params.bufSize < o + flen →
      exec (.tcmk vcid plen) s = .next { s with regs := { s.regs with
        status := { s.regs.status with err := 3#4, sub := 0#4, tcvalid := false }
        errFlags := s.regs.errFlags ||| 0b0000100#7, tcf := TcDescriptor.zero } }) ∧
    (flen ≤ s.regs.tcCfg.maxlen.toNat → flen ≤ 1024 → o + flen ≤ s.params.bufSize →
      ∃ t, exec (.tcmk vcid plen) s = .next t ∧
        (∀ a, t.byteAt a = if o ≤ a ∧ a < o + flen then 0#8 else s.byteAt a) ∧
        t.regs = { s.regs with
          status := { s.regs.status with err := 0#4, sub := 0#4, tcvalid := true }
          tcf := { base := BitVec.ofNat 17 o, flen := BitVec.ofNat 11 flen, vcid := vcid, crc := s.regs.cfg.tcCrc
                   dstart := 5#11, dend := BitVec.ofNat 11 (5 + plen.toNat) } } ∧
        t.params = s.params ∧ t.epoch = s.epoch ∧ t.inputs = s.inputs ∧ t.replies = s.replies)

/-- TCENC (43_tcenc.md R194): on a frame inside the buffer that has room for its header and trailer it writes the five
header bytes of 30_encoding.md R114 and, if the frame has a trailer, the CRC-16 of the new header and the data zone;
every other byte reads as before and no register but `STATUS.ERR` and `STATUS.SUB` changes. Without a frame it ends with
E_NOFRAME, above `MAXLEN` with E_TOOLONG, and then writes no byte. -/
def Obligations.TcencWritesHeaderAndTrailer : Prop :=
  decode 0x41000000#32 = .ok .tcenc ∧
  ∀ s : State,
    let o := s.regs.tcf.base.toNat
    let flen := s.regs.tcf.flen.toNat
    let hdr := tcHeaderBytes s.regs.tcCtl.bypass s.regs.tcCtl.cc s.regs.tcCfg.scid s.regs.tcf.vcid flen s.regs.tcCtl.seq
    let trailer := wireBytes 2 (crc16 (hdr ++ s.bytes (o + 5) (flen - 7)))
    (s.regs.status.tcvalid = false →
      exec .tcenc s = .next { s with regs := { s.regs with
        status := { s.regs.status with err := 6#4, sub := 0#4 }
        errFlags := s.regs.errFlags ||| 0b0100000#7 } }) ∧
    (s.regs.status.tcvalid = true → s.regs.tcCfg.maxlen.toNat < flen →
      exec .tcenc s = .next { s with regs := { s.regs with
        status := { s.regs.status with err := 2#4, sub := 0#4 }
        errFlags := s.regs.errFlags ||| 0b0000010#7 } }) ∧
    (s.regs.status.tcvalid = true → flen ≤ s.regs.tcCfg.maxlen.toNat → o + flen ≤ s.params.bufSize →
      5 + 2 * s.regs.tcf.crc.toNat ≤ flen →
      ∃ t, exec .tcenc s = .next t ∧
        (∀ a, t.byteAt a =
          if o ≤ a ∧ a < o + 5 then hdr.getD (a - o) 0#8
          else if s.regs.tcf.crc = true ∧ o + flen - 2 ≤ a ∧ a < o + flen then trailer.getD (a - (o + flen - 2)) 0#8
          else s.byteAt a) ∧
        t.regs = { s.regs with status := { s.regs.status with err := 0#4, sub := 0#4 } } ∧
        t.params = s.params ∧ t.epoch = s.epoch ∧ t.inputs = s.inputs ∧ t.replies = s.replies)

/-- The model's one fault (its own choice, notes/assumptions/6.md): TCENC stops exactly where a valid descriptor within
`MAXLEN` names a frame outside the buffer or too short for its header and trailer, which 10_state.md R48 invariant 4
rules out. No other command ever stops, and no command refuses. -/
def Obligations.OnlyTcencOnABrokenDescriptorStops : Prop :=
  (∀ (i : Instr) (s : State), (∃ t, exec i s = .next t) ∨
    i = .tcenc ∧ exec i s = .fault .tcFrameOutsideBuffer ∧ ¬ DescriptorInv s.params s.regs) ∧
  ∀ s : State, s.regs.status.tcvalid = true → s.regs.tcf.flen.toNat ≤ s.regs.tcCfg.maxlen.toNat →
    (s.params.bufSize < s.regs.tcf.base.toNat + s.regs.tcf.flen.toNat ∨
      s.regs.tcf.flen.toNat < 5 + 2 * s.regs.tcf.crc.toNat) →
    exec .tcenc s = .fault .tcFrameOutsideBuffer

/-- 43_tcenc.md R195 (g): the frame TCENC produces, given to CHK16 as the region, passes when it has a trailer. -/
def Obligations.EncodedTcFramePassesChk16 : Prop :=
  ∀ s : State, s.regs.status.tcvalid = true → s.regs.tcf.crc = true →
    s.regs.tcf.flen.toNat ≤ s.regs.tcCfg.maxlen.toNat → 7 ≤ s.regs.tcf.flen.toNat →
    s.regs.tcf.base.toNat + s.regs.tcf.flen.toNat ≤ s.params.bufSize →
    ∃ t u, exec .tcenc s = .next t ∧
      exec .chk16 { t with regs := { t.regs with off := 0#15 ++ s.regs.tcf.base, len := 0#21 ++ s.regs.tcf.flen } }
        = .next u ∧
      u.regs.status.err = 0#4 ∧ u.regs.rCrc = u.regs.rCrcRx

/-! ## What holds of every command -/

/-- 10_state.md R26: a completion with error code `k` sets bit `k` of `ERRFLAGS` and no other, a success leaves
`ERRFLAGS`; CLRERR, SRST and a hardware reset clear it; an illegal word sets bit 4; no other host access changes it; bit
0 and bits 31:8 read 0. -/
def Obligations.StickyFlagsFollowTheCompletions : Prop :=
  (∀ (i : Instr) (s t : State), exec i s = .next t →
    t.regRead 2#6 =
      if i = .clrerr ∨ i = .srst then 0#32
      else if t.regs.status.err = 0#4 then s.regRead 2#6
      else s.regRead 2#6 ||| (1#32 <<< t.regs.status.err.toNat)) ∧
  (∀ (s : State) (w : Word), IllegalWord w →
    ∃ t, runCommand w s = .next t ∧ t.regs.status.err = 4#4 ∧ t.regRead 2#6 = s.regRead 2#6 ||| (1#32 <<< 4)) ∧
  (∀ (s : State) (a : HostAccess), (∀ w, a ≠ .regWrite 0#6 w) →
    ∃ t, hostAccess a s = .next t ∧ t.regRead 2#6 = s.regRead 2#6) ∧
  (∀ s : State, ∃ t, takeInput .hardReset s = .next t ∧ t.regRead 2#6 = 0#32) ∧
  ∀ s : State, s.regRead 2#6 &&& 0xFFFFFF01#32 = 0#32

/-- 10_state.md R27: `CNT_CORRUPT` grows by 1, modulo 2^32, at every E_CORRUPT completion; SRST and a hardware reset
clear it; nothing else changes it. -/
def Obligations.CorruptCounterCountsEveryCorruptCompletion : Prop :=
  (∀ (i : Instr) (s t : State), exec i s = .next t →
    (t.regRead 32#6).toNat =
      if i = .srst then 0
      else if t.regs.status.err = 1#4 then ((s.regRead 32#6).toNat + 1) % 2 ^ 32
      else (s.regRead 32#6).toNat) ∧
  (∀ (s : State) (w : Word), IllegalWord w →
    ∃ t, runCommand w s = .next t ∧ t.regs.status.err = 4#4 ∧ t.regRead 32#6 = s.regRead 32#6) ∧
  (∀ (s : State) (a : HostAccess), (∀ w, a ≠ .regWrite 0#6 w) →
    ∃ t, hostAccess a s = .next t ∧ t.regRead 32#6 = s.regRead 32#6) ∧
  ∀ s : State, ∃ t, takeInput .hardReset s = .next t ∧ t.regRead 32#6 = 0#32

/-- 10_state.md R25: `RVALID` is written only by PTM, PAOS, PUSLP and SRST, `TCVALID` only by TCMK and SRST; `ERR` stays
below 8, and `SUB` is non-zero exactly with E_CORRUPT (60_exceptions.md R220, R222). -/
def Obligations.StatusIsWrittenAsTheRulesSay : Prop :=
  ∀ (i : Instr) (s t : State), exec i s = .next t →
    (i ∉ [.ptm, .paos, .puslp, .srst] → t.regs.status.rvalid = s.regs.status.rvalid) ∧
    ((∀ vcid plen, i ≠ .tcmk vcid plen) → i ≠ .srst → t.regs.status.tcvalid = s.regs.status.tcvalid) ∧
    t.regs.status.err.toNat < 8 ∧ t.regs.status.sub.toNat < 5 ∧
    (t.regs.status.sub ≠ 0#4 ↔ t.regs.status.err = 1#4)

/-- 10_state.md R23, R45: no command but SRST writes `OFF`, `LEN` or a configuration register, and only RDBE and SRST
write `VAL`. -/
def Obligations.CommandsKeepOperandsAndConfiguration : Prop :=
  ∀ (i : Instr) (s t : State), exec i s = .next t → i ≠ .srst →
    t.regs.off = s.regs.off ∧ t.regs.len = s.regs.len ∧ t.regs.cfg = s.regs.cfg ∧
    t.regs.dlFramelen = s.regs.dlFramelen ∧ t.regs.aosInsert = s.regs.aosInsert ∧ t.regs.tcCfg = s.regs.tcCfg ∧
    t.regs.tcCtl = s.regs.tcCtl ∧
    ((∀ n, i ≠ .rdbe n) → t.regs.valLo = s.regs.valLo ∧ t.regs.valHi = s.regs.valHi)

/-- 10_state.md R45: only WRBE, TCMK and TCENC write the buffer. -/
def Obligations.OnlyThreeCommandsWriteTheBuffer : Prop :=
  ∀ (i : Instr) (s t : State), exec i s = .next t → (∀ n, i ≠ .wrbe n) → (∀ vcid plen, i ≠ .tcmk vcid plen) →
    i ≠ .tcenc → t.buf = s.buf ∧ t.epoch = s.epoch ∧ ∀ a, t.byteAt a = s.byteAt a

/-- 42_parse.md R186, 40_crc.md R140, 10_state.md R45: the parse results are written by PTM, PAOS, PUSLP and SRST only,
`R_CRC` and `R_CRCRX` by those and the four CRC commands only, the TC descriptor by TCMK and SRST only. -/
def Obligations.ResultRegistersAreWrittenByTheirCommandsOnly : Prop :=
  ∀ (i : Instr) (s t : State), exec i s = .next t →
    (i ∉ [.ptm, .paos, .puslp, .srst] → t.regs.result = s.regs.result) ∧
    (i ∉ [.ptm, .paos, .puslp, .srst, .crc16, .crc32, .chk16, .chk32] →
      t.regs.rCrc = s.regs.rCrc ∧ t.regs.rCrcRx = s.regs.rCrcRx) ∧
    ((∀ vcid plen, i ≠ .tcmk vcid plen) → i ≠ .srst → t.regs.tcf = s.regs.tcf)

/-- The parameters are fixed for a run (10_state.md R44), and a step takes at most the oldest input off the list and adds
to the end of the replies only (20_memory.md R62, R70; the two lists are the model's own, notes/assumptions/3.md and 4.md). -/
def Obligations.StepsKeepParametersAndTakeInputsInOrder : Prop :=
  ∀ s t : State, step s = .next t →
    t.params = s.params ∧ t.inputs = s.inputs.tail ∧ s.replies <+: t.replies

/-! ## Invariants, safety and reset -/

/-- The invariant holds right after reset. -/
def Obligations.InvariantHoldsAtReset : Prop := Inv State.reset

/-- Every step keeps the invariant: parameters in range (00_scope.md R8), the buffer in the model's canonical form
(notes/assumptions/1.md), and 10_state.md R48. -/
def Obligations.InvariantKeptByEveryStep : Prop :=
  ∀ s t : State, Inv s → step s = .next t → Inv t

/-- From every state that satisfies the invariant the step goes on: no fault and no refusal, whatever the input
(70_reset_and_hazards.md R263, 60_exceptions.md R229). -/
def Obligations.StepsFromTheInvariantAreSafe : Prop :=
  ∀ s : State, Inv s → Safe s

/-- 10_state.md R48: its six invariants hold in every state that any list of host accesses and resets reaches from reset,
whatever the parameters in the range of 00_scope.md R8. -/
def Obligations.EveryReachableStateSatisfiesTheSixInvariants : Prop :=
  ∀ (p : Config.Params) (inputs : List Input) (k : Nat) (t : State), Config.Params.wf p →
    Host.Core.run Sys2Proof.core k ({ State.reset with params := p, inputs := inputs } : State) = .next t →
    ResultInv t.regs ∧ DescriptorInv p t.regs ∧
    (t.regs.status.err ≠ 0#4 → (errFlagsWord t.regs.errFlags).getLsbD t.regs.status.err.toNat = true) ∧
    (t.regs.status.sub ≠ 0#4 → t.regs.status.err = 1#4)

/-- 10_state.md R46: every register reads 0 after a hardware reset, and at State.reset. -/
def Obligations.EveryRegisterReadsZeroAfterHardwareReset : Prop :=
  (∀ f, State.reset.regRead f = 0#32) ∧
  ∀ (s : State) (rest : List Input), s.inputs = .hardReset :: rest →
    ∃ t, step s = .next t ∧ t.regs = Registers.reset ∧ ∀ f, t.regRead f = 0#32

/-- What a hardware reset does to the buffer in this model (its own choice of free values, notes/assumptions/1.md and
5.md; 10_state.md R47 only says that every byte is unspecified): every byte becomes the free byte of the new reset. -/
def Obligations.HardwareResetFreesEveryBufferByte : Prop :=
  ∀ (s : State) (rest : List Input), s.inputs = .hardReset :: rest →
    ∃ t, step s = .next t ∧ t.params = s.params ∧ t.inputs = rest ∧ t.replies = s.replies ∧
      ∀ a, a < s.params.bufSize → t.byteAt a = Config.unwrittenByte (s.epoch + 1) a

/-- 70_reset_and_hazards.md R254: any command may be the first after reset, and what some of them give. -/
def Obligations.FirstCommandAfterReset : Prop :=
  (∀ i : Instr, ∃ t, exec i State.reset = .next t) ∧
  EndsWith .nop State.reset 0#4 0#4 ∧
  (∃ t, exec .crc16 State.reset = .next t ∧ t.regs.rCrc = 0xFFFF#32 ∧ t.regs.status.err = 0#4) ∧
  (∃ t, exec .chk16 State.reset = .next t ∧ t.regs.status.err = 1#4 ∧ t.regs.status.sub = 1#4 ∧
    t.regs.cntCorrupt = 1#32) ∧
  EndsWith .ptm State.reset 5#4 0#4 ∧ EndsWith .puslp State.reset 1#4 1#4 ∧
  EndsWith (.tcmk 0#6 0#10) State.reset 2#4 0#4 ∧ EndsWith .tcenc State.reset 6#4 0#4 ∧
  (∃ t, exec (.rdbe 1#4) State.reset = .next t ∧ t.regs.status.err = 0#4 ∧
    t.regs.valLo = 0#24 ++ State.reset.byteAt 0)
end

