-- ==== Sys2Proof/Laws/Decode.lean ====
section
/-! SUPPORT. What each format of command word decodes to, said once; the words split into their fields. -/

namespace Sys2Proof.Laws

theorem word_fields (w : Word) : opField w ++ immField w = w := by
  simp only [opField, immField, toNat_eq_iff, toNat_extract_eq, toNat_append_eq]
  omega

theorem opField_toNat (w : Word) : (opField w).toNat = w.toNat / 2 ^ 24 := by
  simp only [opField, toNat_extract_eq]
  have := w.isLt
  omega

theorem immField_toNat (w : Word) : (immField w).toNat = w.toNat % 2 ^ 24 := by
  simp only [immField, toNat_extract_eq]
  omega

/-- A bare format decodes exactly when `IMM` is 0. -/
theorem decodeBare_ok {imm : BitVec 24} {i j : Instr} : decodeBare imm i = .ok j ↔ imm.toNat = 0 ∧ j = i := by
  unfold decodeBare
  by_cases h : imm = 0#24
  · rw [if_pos h]
    constructor
    · intro e
      exact ⟨by rw [h]; rfl, by injection e with e; exact e.symm⟩
    · rintro ⟨-, rfl⟩
      rfl
  · rw [if_neg h]
    constructor
    · intro e
      cases e
    · rintro ⟨h0, -⟩
      exact absurd ((toNat_eq_iff _ _).2 h0) h

/-- Format `W` decodes exactly when the must-be-zero bits are 0 and the width is legal. -/
theorem decodeWidth_ok {imm : BitVec 24} {i : BitVec 4 → Instr} {j : Instr} :
    decodeWidth imm i = .ok j ↔ ∃ n, legalWidth n ∧ imm = 0#20 ++ n ∧ j = i n := by
  unfold decodeWidth
  constructor
  · intro h
    split at h
    · rename_i h1
      split at h
      · rename_i h2
        refine ⟨_, h2, ?_, by simpa using h.symm⟩
        rw [toNat_eq_iff] at h1 ⊢
        simp only [toNat_extract_eq, toNat_append_eq] at h1 ⊢
        have : (0#20).toNat = 0 := rfl
        omega
      · simp at h
    · simp at h
  · rintro ⟨n, hn, rfl, rfl⟩
    have h1 : (0#20 ++ n).extractLsb' 4 20 = 0#20 := by
      simp only [toNat_eq_iff, toNat_extract_eq, toNat_append_eq]
      omega
    have h2 : (0#20 ++ n).extractLsb' 0 4 = n := by
      simp only [toNat_eq_iff, toNat_extract_eq, toNat_append_eq]
      omega
    rw [if_pos h1, h2, if_pos hn]

/-- Format `M` decodes exactly when the must-be-zero bits are 0. -/
theorem decodeMake_ok {imm : BitVec 24} {j : Instr} :
    decodeMake imm = .ok j ↔ ∃ (v : BitVec 6) (p : BitVec 10), imm = 0#8 ++ p ++ v ∧ j = .tcmk v p := by
  unfold decodeMake
  constructor
  · intro h
    split at h
    · rename_i h1
      refine ⟨_, _, ?_, by simpa using h.symm⟩
      rw [toNat_eq_iff] at h1 ⊢
      simp only [toNat_extract_eq, toNat_append_eq] at h1 ⊢
      have : (0#8).toNat = 0 := rfl
      omega
    · simp at h
  · rintro ⟨v, p, rfl, rfl⟩
    have h1 : (0#8 ++ p ++ v).extractLsb' 16 8 = 0#8 := by
      simp only [toNat_eq_iff, toNat_extract_eq, toNat_append_eq]
      omega
    have h2 : (0#8 ++ p ++ v).extractLsb' 0 6 = v := by
      simp only [toNat_eq_iff, toNat_extract_eq, toNat_append_eq]
      omega
    have h3 : (0#8 ++ p ++ v).extractLsb' 6 10 = p := by
      simp only [toNat_eq_iff, toNat_extract_eq, toNat_append_eq]
      omega
    rw [if_pos h1, h2, h3]

/-- Every value of `OP` is one of the fourteen opcodes or decodes as reserved. -/
theorem opcode_cases (op : BitVec 8) :
    op ∈ [0x00#8, 0x01#8, 0x02#8, 0x10#8, 0x11#8, 0x12#8, 0x13#8, 0x20#8, 0x21#8, 0x30#8, 0x31#8, 0x32#8, 0x40#8,
      0x41#8] ∨
    (op.toNat ∉ [0x00, 0x01, 0x02, 0x10, 0x11, 0x12, 0x13, 0x20, 0x21, 0x30, 0x31, 0x32, 0x40, 0x41] ∧
      ∀ imm, decodeFields op imm = .error .reservedOpcode) := by
  by_cases h : op ∈ [0x00#8, 0x01#8, 0x02#8, 0x10#8, 0x11#8, 0x12#8, 0x13#8, 0x20#8, 0x21#8, 0x30#8, 0x31#8, 0x32#8,
      0x40#8, 0x41#8]
  · exact .inl h
  · refine .inr ⟨by revert h; revert op; decide +kernel, fun imm => ?_⟩
    simp only [List.mem_cons, List.not_mem_nil, or_false, not_or] at h
    obtain ⟨h0, h1, h2, h3, h4, h5, h6, h7, h8, h9, h10, h11, h12, h13⟩ := h
    rw [decodeFields, if_neg h0, if_neg h1, if_neg h2, if_neg h3, if_neg h4, if_neg h5, if_neg h6, if_neg h7, if_neg h8,
      if_neg h9, if_neg h10, if_neg h11, if_neg h12, if_neg h13]

end Sys2Proof.Laws
end

