-- ==== Sys2Proof/Laws/State.lean ====
section
/-! SUPPORT. One lemma for each field after each update of the state, so that no later proof unfolds a record
update. All are true by definition. -/

namespace Sys2Proof.Machine

/-! ## `State.done` -/

@[simp] theorem done_err (s : State) : s.done.regs.status.err = 0#4 := rfl
@[simp] theorem done_sub (s : State) : s.done.regs.status.sub = 0#4 := rfl
@[simp] theorem done_rvalid (s : State) : s.done.regs.status.rvalid = s.regs.status.rvalid := rfl
@[simp] theorem done_tcvalid (s : State) : s.done.regs.status.tcvalid = s.regs.status.tcvalid := rfl
@[simp] theorem done_errFlags (s : State) : s.done.regs.errFlags = s.regs.errFlags := rfl
@[simp] theorem done_off (s : State) : s.done.regs.off = s.regs.off := rfl
@[simp] theorem done_len (s : State) : s.done.regs.len = s.regs.len := rfl
@[simp] theorem done_valLo (s : State) : s.done.regs.valLo = s.regs.valLo := rfl
@[simp] theorem done_valHi (s : State) : s.done.regs.valHi = s.regs.valHi := rfl
@[simp] theorem done_cfg (s : State) : s.done.regs.cfg = s.regs.cfg := rfl
@[simp] theorem done_dlFramelen (s : State) : s.done.regs.dlFramelen = s.regs.dlFramelen := rfl
@[simp] theorem done_aosInsert (s : State) : s.done.regs.aosInsert = s.regs.aosInsert := rfl
@[simp] theorem done_tcCfg (s : State) : s.done.regs.tcCfg = s.regs.tcCfg := rfl
@[simp] theorem done_tcCtl (s : State) : s.done.regs.tcCtl = s.regs.tcCtl := rfl
@[simp] theorem done_result (s : State) : s.done.regs.result = s.regs.result := rfl
@[simp] theorem done_rCrc (s : State) : s.done.regs.rCrc = s.regs.rCrc := rfl
@[simp] theorem done_rCrcRx (s : State) : s.done.regs.rCrcRx = s.regs.rCrcRx := rfl
@[simp] theorem done_tcf (s : State) : s.done.regs.tcf = s.regs.tcf := rfl
@[simp] theorem done_cntCorrupt (s : State) : s.done.regs.cntCorrupt = s.regs.cntCorrupt := rfl
@[simp] theorem done_params (s : State) : s.done.params = s.params := rfl
@[simp] theorem done_buf (s : State) : s.done.buf = s.buf := rfl
@[simp] theorem done_epoch (s : State) : s.done.epoch = s.epoch := rfl
@[simp] theorem done_inputs (s : State) : s.done.inputs = s.inputs := rfl
@[simp] theorem done_replies (s : State) : s.done.replies = s.replies := rfl

/-! ## `State.raise` -/

@[simp] theorem raise_err (s : State) (e : Failure) : (s.raise e).regs.status.err = e.code := rfl
@[simp] theorem raise_sub (s : State) (e : Failure) : (s.raise e).regs.status.sub = e.sub := rfl
@[simp] theorem raise_rvalid (s : State) (e : Failure) : (s.raise e).regs.status.rvalid = s.regs.status.rvalid := rfl
@[simp] theorem raise_tcvalid (s : State) (e : Failure) : (s.raise e).regs.status.tcvalid = s.regs.status.tcvalid := rfl
@[simp] theorem raise_errFlags (s : State) (e : Failure) : (s.raise e).regs.errFlags = s.regs.errFlags ||| e.sticky := rfl
@[simp] theorem raise_off (s : State) (e : Failure) : (s.raise e).regs.off = s.regs.off := rfl
@[simp] theorem raise_len (s : State) (e : Failure) : (s.raise e).regs.len = s.regs.len := rfl
@[simp] theorem raise_valLo (s : State) (e : Failure) : (s.raise e).regs.valLo = s.regs.valLo := rfl
@[simp] theorem raise_valHi (s : State) (e : Failure) : (s.raise e).regs.valHi = s.regs.valHi := rfl
@[simp] theorem raise_cfg (s : State) (e : Failure) : (s.raise e).regs.cfg = s.regs.cfg := rfl
@[simp] theorem raise_dlFramelen (s : State) (e : Failure) : (s.raise e).regs.dlFramelen = s.regs.dlFramelen := rfl
@[simp] theorem raise_aosInsert (s : State) (e : Failure) : (s.raise e).regs.aosInsert = s.regs.aosInsert := rfl
@[simp] theorem raise_tcCfg (s : State) (e : Failure) : (s.raise e).regs.tcCfg = s.regs.tcCfg := rfl
@[simp] theorem raise_tcCtl (s : State) (e : Failure) : (s.raise e).regs.tcCtl = s.regs.tcCtl := rfl
@[simp] theorem raise_result (s : State) (e : Failure) : (s.raise e).regs.result = s.regs.result := rfl
@[simp] theorem raise_rCrc (s : State) (e : Failure) : (s.raise e).regs.rCrc = s.regs.rCrc := rfl
@[simp] theorem raise_rCrcRx (s : State) (e : Failure) : (s.raise e).regs.rCrcRx = s.regs.rCrcRx := rfl
@[simp] theorem raise_tcf (s : State) (e : Failure) : (s.raise e).regs.tcf = s.regs.tcf := rfl
@[simp] theorem raise_cntCorrupt (s : State) (e : Failure) : (s.raise e).regs.cntCorrupt = s.regs.cntCorrupt + e.count := rfl
@[simp] theorem raise_params (s : State) (e : Failure) : (s.raise e).params = s.params := rfl
@[simp] theorem raise_buf (s : State) (e : Failure) : (s.raise e).buf = s.buf := rfl
@[simp] theorem raise_epoch (s : State) (e : Failure) : (s.raise e).epoch = s.epoch := rfl
@[simp] theorem raise_inputs (s : State) (e : Failure) : (s.raise e).inputs = s.inputs := rfl
@[simp] theorem raise_replies (s : State) (e : Failure) : (s.raise e).replies = s.replies := rfl

/-! ## `State.clearResults` -/

@[simp] theorem clearResults_err (s : State) : s.clearResults.regs.status.err = s.regs.status.err := rfl
@[simp] theorem clearResults_sub (s : State) : s.clearResults.regs.status.sub = s.regs.status.sub := rfl
@[simp] theorem clearResults_rvalid (s : State) : s.clearResults.regs.status.rvalid = false := rfl
@[simp] theorem clearResults_tcvalid (s : State) : s.clearResults.regs.status.tcvalid = s.regs.status.tcvalid := rfl
@[simp] theorem clearResults_errFlags (s : State) : s.clearResults.regs.errFlags = s.regs.errFlags := rfl
@[simp] theorem clearResults_off (s : State) : s.clearResults.regs.off = s.regs.off := rfl
@[simp] theorem clearResults_len (s : State) : s.clearResults.regs.len = s.regs.len := rfl
@[simp] theorem clearResults_valLo (s : State) : s.clearResults.regs.valLo = s.regs.valLo := rfl
@[simp] theorem clearResults_valHi (s : State) : s.clearResults.regs.valHi = s.regs.valHi := rfl
@[simp] theorem clearResults_cfg (s : State) : s.clearResults.regs.cfg = s.regs.cfg := rfl
@[simp] theorem clearResults_dlFramelen (s : State) : s.clearResults.regs.dlFramelen = s.regs.dlFramelen := rfl
@[simp] theorem clearResults_aosInsert (s : State) : s.clearResults.regs.aosInsert = s.regs.aosInsert := rfl
@[simp] theorem clearResults_tcCfg (s : State) : s.clearResults.regs.tcCfg = s.regs.tcCfg := rfl
@[simp] theorem clearResults_tcCtl (s : State) : s.clearResults.regs.tcCtl = s.regs.tcCtl := rfl
@[simp] theorem clearResults_result (s : State) : s.clearResults.regs.result = ParseResult.zero := rfl
@[simp] theorem clearResults_rCrc (s : State) : s.clearResults.regs.rCrc = 0#32 := rfl
@[simp] theorem clearResults_rCrcRx (s : State) : s.clearResults.regs.rCrcRx = 0#32 := rfl
@[simp] theorem clearResults_tcf (s : State) : s.clearResults.regs.tcf = s.regs.tcf := rfl
@[simp] theorem clearResults_cntCorrupt (s : State) : s.clearResults.regs.cntCorrupt = s.regs.cntCorrupt := rfl
@[simp] theorem clearResults_params (s : State) : s.clearResults.params = s.params := rfl
@[simp] theorem clearResults_buf (s : State) : s.clearResults.buf = s.buf := rfl
@[simp] theorem clearResults_epoch (s : State) : s.clearResults.epoch = s.epoch := rfl
@[simp] theorem clearResults_inputs (s : State) : s.clearResults.inputs = s.inputs := rfl
@[simp] theorem clearResults_replies (s : State) : s.clearResults.replies = s.replies := rfl

/-! ## `State.writeResults` -/

@[simp] theorem writeResults_err (s : State) (p : Parsed) : (s.writeResults p).regs.status.err = s.regs.status.err := rfl
@[simp] theorem writeResults_sub (s : State) (p : Parsed) : (s.writeResults p).regs.status.sub = s.regs.status.sub := rfl
@[simp] theorem writeResults_rvalid (s : State) (p : Parsed) : (s.writeResults p).regs.status.rvalid = true := rfl
@[simp] theorem writeResults_tcvalid (s : State) (p : Parsed) : (s.writeResults p).regs.status.tcvalid = s.regs.status.tcvalid := rfl
@[simp] theorem writeResults_errFlags (s : State) (p : Parsed) : (s.writeResults p).regs.errFlags = s.regs.errFlags := rfl
@[simp] theorem writeResults_off (s : State) (p : Parsed) : (s.writeResults p).regs.off = s.regs.off := rfl
@[simp] theorem writeResults_len (s : State) (p : Parsed) : (s.writeResults p).regs.len = s.regs.len := rfl
@[simp] theorem writeResults_valLo (s : State) (p : Parsed) : (s.writeResults p).regs.valLo = s.regs.valLo := rfl
@[simp] theorem writeResults_valHi (s : State) (p : Parsed) : (s.writeResults p).regs.valHi = s.regs.valHi := rfl
@[simp] theorem writeResults_cfg (s : State) (p : Parsed) : (s.writeResults p).regs.cfg = s.regs.cfg := rfl
@[simp] theorem writeResults_dlFramelen (s : State) (p : Parsed) : (s.writeResults p).regs.dlFramelen = s.regs.dlFramelen := rfl
@[simp] theorem writeResults_aosInsert (s : State) (p : Parsed) : (s.writeResults p).regs.aosInsert = s.regs.aosInsert := rfl
@[simp] theorem writeResults_tcCfg (s : State) (p : Parsed) : (s.writeResults p).regs.tcCfg = s.regs.tcCfg := rfl
@[simp] theorem writeResults_tcCtl (s : State) (p : Parsed) : (s.writeResults p).regs.tcCtl = s.regs.tcCtl := rfl
@[simp] theorem writeResults_result (s : State) (p : Parsed) : (s.writeResults p).regs.result = p.result := rfl
@[simp] theorem writeResults_rCrc (s : State) (p : Parsed) : (s.writeResults p).regs.rCrc = p.computed := rfl
@[simp] theorem writeResults_rCrcRx (s : State) (p : Parsed) : (s.writeResults p).regs.rCrcRx = p.received := rfl
@[simp] theorem writeResults_tcf (s : State) (p : Parsed) : (s.writeResults p).regs.tcf = s.regs.tcf := rfl
@[simp] theorem writeResults_cntCorrupt (s : State) (p : Parsed) : (s.writeResults p).regs.cntCorrupt = s.regs.cntCorrupt := rfl
@[simp] theorem writeResults_params (s : State) (p : Parsed) : (s.writeResults p).params = s.params := rfl
@[simp] theorem writeResults_buf (s : State) (p : Parsed) : (s.writeResults p).buf = s.buf := rfl
@[simp] theorem writeResults_epoch (s : State) (p : Parsed) : (s.writeResults p).epoch = s.epoch := rfl
@[simp] theorem writeResults_inputs (s : State) (p : Parsed) : (s.writeResults p).inputs = s.inputs := rfl
@[simp] theorem writeResults_replies (s : State) (p : Parsed) : (s.writeResults p).replies = s.replies := rfl

/-! ## `State.tcInvalidate` -/

@[simp] theorem tcInvalidate_err (s : State) : s.tcInvalidate.regs.status.err = s.regs.status.err := rfl
@[simp] theorem tcInvalidate_sub (s : State) : s.tcInvalidate.regs.status.sub = s.regs.status.sub := rfl
@[simp] theorem tcInvalidate_rvalid (s : State) : s.tcInvalidate.regs.status.rvalid = s.regs.status.rvalid := rfl
@[simp] theorem tcInvalidate_tcvalid (s : State) : s.tcInvalidate.regs.status.tcvalid = false := rfl
@[simp] theorem tcInvalidate_errFlags (s : State) : s.tcInvalidate.regs.errFlags = s.regs.errFlags := rfl
@[simp] theorem tcInvalidate_off (s : State) : s.tcInvalidate.regs.off = s.regs.off := rfl
@[simp] theorem tcInvalidate_len (s : State) : s.tcInvalidate.regs.len = s.regs.len := rfl
@[simp] theorem tcInvalidate_valLo (s : State) : s.tcInvalidate.regs.valLo = s.regs.valLo := rfl
@[simp] theorem tcInvalidate_valHi (s : State) : s.tcInvalidate.regs.valHi = s.regs.valHi := rfl
@[simp] theorem tcInvalidate_cfg (s : State) : s.tcInvalidate.regs.cfg = s.regs.cfg := rfl
@[simp] theorem tcInvalidate_dlFramelen (s : State) : s.tcInvalidate.regs.dlFramelen = s.regs.dlFramelen := rfl
@[simp] theorem tcInvalidate_aosInsert (s : State) : s.tcInvalidate.regs.aosInsert = s.regs.aosInsert := rfl
@[simp] theorem tcInvalidate_tcCfg (s : State) : s.tcInvalidate.regs.tcCfg = s.regs.tcCfg := rfl
@[simp] theorem tcInvalidate_tcCtl (s : State) : s.tcInvalidate.regs.tcCtl = s.regs.tcCtl := rfl
@[simp] theorem tcInvalidate_result (s : State) : s.tcInvalidate.regs.result = s.regs.result := rfl
@[simp] theorem tcInvalidate_rCrc (s : State) : s.tcInvalidate.regs.rCrc = s.regs.rCrc := rfl
@[simp] theorem tcInvalidate_rCrcRx (s : State) : s.tcInvalidate.regs.rCrcRx = s.regs.rCrcRx := rfl
@[simp] theorem tcInvalidate_tcf (s : State) : s.tcInvalidate.regs.tcf = TcDescriptor.zero := rfl
@[simp] theorem tcInvalidate_cntCorrupt (s : State) : s.tcInvalidate.regs.cntCorrupt = s.regs.cntCorrupt := rfl
@[simp] theorem tcInvalidate_params (s : State) : s.tcInvalidate.params = s.params := rfl
@[simp] theorem tcInvalidate_buf (s : State) : s.tcInvalidate.buf = s.buf := rfl
@[simp] theorem tcInvalidate_epoch (s : State) : s.tcInvalidate.epoch = s.epoch := rfl
@[simp] theorem tcInvalidate_inputs (s : State) : s.tcInvalidate.inputs = s.inputs := rfl
@[simp] theorem tcInvalidate_replies (s : State) : s.tcInvalidate.replies = s.replies := rfl

/-! ## `State.tcLatch` -/

@[simp] theorem tcLatch_err (s : State) (d : TcDescriptor) : (s.tcLatch d).regs.status.err = s.regs.status.err := rfl
@[simp] theorem tcLatch_sub (s : State) (d : TcDescriptor) : (s.tcLatch d).regs.status.sub = s.regs.status.sub := rfl
@[simp] theorem tcLatch_rvalid (s : State) (d : TcDescriptor) : (s.tcLatch d).regs.status.rvalid = s.regs.status.rvalid := rfl
@[simp] theorem tcLatch_tcvalid (s : State) (d : TcDescriptor) : (s.tcLatch d).regs.status.tcvalid = true := rfl
@[simp] theorem tcLatch_errFlags (s : State) (d : TcDescriptor) : (s.tcLatch d).regs.errFlags = s.regs.errFlags := rfl
@[simp] theorem tcLatch_off (s : State) (d : TcDescriptor) : (s.tcLatch d).regs.off = s.regs.off := rfl
@[simp] theorem tcLatch_len (s : State) (d : TcDescriptor) : (s.tcLatch d).regs.len = s.regs.len := rfl
@[simp] theorem tcLatch_valLo (s : State) (d : TcDescriptor) : (s.tcLatch d).regs.valLo = s.regs.valLo := rfl
@[simp] theorem tcLatch_valHi (s : State) (d : TcDescriptor) : (s.tcLatch d).regs.valHi = s.regs.valHi := rfl
@[simp] theorem tcLatch_cfg (s : State) (d : TcDescriptor) : (s.tcLatch d).regs.cfg = s.regs.cfg := rfl
@[simp] theorem tcLatch_dlFramelen (s : State) (d : TcDescriptor) : (s.tcLatch d).regs.dlFramelen = s.regs.dlFramelen := rfl
@[simp] theorem tcLatch_aosInsert (s : State) (d : TcDescriptor) : (s.tcLatch d).regs.aosInsert = s.regs.aosInsert := rfl
@[simp] theorem tcLatch_tcCfg (s : State) (d : TcDescriptor) : (s.tcLatch d).regs.tcCfg = s.regs.tcCfg := rfl
@[simp] theorem tcLatch_tcCtl (s : State) (d : TcDescriptor) : (s.tcLatch d).regs.tcCtl = s.regs.tcCtl := rfl
@[simp] theorem tcLatch_result (s : State) (d : TcDescriptor) : (s.tcLatch d).regs.result = s.regs.result := rfl
@[simp] theorem tcLatch_rCrc (s : State) (d : TcDescriptor) : (s.tcLatch d).regs.rCrc = s.regs.rCrc := rfl
@[simp] theorem tcLatch_rCrcRx (s : State) (d : TcDescriptor) : (s.tcLatch d).regs.rCrcRx = s.regs.rCrcRx := rfl
@[simp] theorem tcLatch_tcf (s : State) (d : TcDescriptor) : (s.tcLatch d).regs.tcf = d := rfl
@[simp] theorem tcLatch_cntCorrupt (s : State) (d : TcDescriptor) : (s.tcLatch d).regs.cntCorrupt = s.regs.cntCorrupt := rfl
@[simp] theorem tcLatch_params (s : State) (d : TcDescriptor) : (s.tcLatch d).params = s.params := rfl
@[simp] theorem tcLatch_buf (s : State) (d : TcDescriptor) : (s.tcLatch d).buf = s.buf := rfl
@[simp] theorem tcLatch_epoch (s : State) (d : TcDescriptor) : (s.tcLatch d).epoch = s.epoch := rfl
@[simp] theorem tcLatch_inputs (s : State) (d : TcDescriptor) : (s.tcLatch d).inputs = s.inputs := rfl
@[simp] theorem tcLatch_replies (s : State) (d : TcDescriptor) : (s.tcLatch d).replies = s.replies := rfl

/-! ## `State.setCrc` -/

@[simp] theorem setCrc_err (s : State) (c r : Word) : (s.setCrc c r).regs.status.err = s.regs.status.err := rfl
@[simp] theorem setCrc_sub (s : State) (c r : Word) : (s.setCrc c r).regs.status.sub = s.regs.status.sub := rfl
@[simp] theorem setCrc_rvalid (s : State) (c r : Word) : (s.setCrc c r).regs.status.rvalid = s.regs.status.rvalid := rfl
@[simp] theorem setCrc_tcvalid (s : State) (c r : Word) : (s.setCrc c r).regs.status.tcvalid = s.regs.status.tcvalid := rfl
@[simp] theorem setCrc_errFlags (s : State) (c r : Word) : (s.setCrc c r).regs.errFlags = s.regs.errFlags := rfl
@[simp] theorem setCrc_off (s : State) (c r : Word) : (s.setCrc c r).regs.off = s.regs.off := rfl
@[simp] theorem setCrc_len (s : State) (c r : Word) : (s.setCrc c r).regs.len = s.regs.len := rfl
@[simp] theorem setCrc_valLo (s : State) (c r : Word) : (s.setCrc c r).regs.valLo = s.regs.valLo := rfl
@[simp] theorem setCrc_valHi (s : State) (c r : Word) : (s.setCrc c r).regs.valHi = s.regs.valHi := rfl
@[simp] theorem setCrc_cfg (s : State) (c r : Word) : (s.setCrc c r).regs.cfg = s.regs.cfg := rfl
@[simp] theorem setCrc_dlFramelen (s : State) (c r : Word) : (s.setCrc c r).regs.dlFramelen = s.regs.dlFramelen := rfl
@[simp] theorem setCrc_aosInsert (s : State) (c r : Word) : (s.setCrc c r).regs.aosInsert = s.regs.aosInsert := rfl
@[simp] theorem setCrc_tcCfg (s : State) (c r : Word) : (s.setCrc c r).regs.tcCfg = s.regs.tcCfg := rfl
@[simp] theorem setCrc_tcCtl (s : State) (c r : Word) : (s.setCrc c r).regs.tcCtl = s.regs.tcCtl := rfl
@[simp] theorem setCrc_result (s : State) (c r : Word) : (s.setCrc c r).regs.result = s.regs.result := rfl
@[simp] theorem setCrc_rCrc (s : State) (c r : Word) : (s.setCrc c r).regs.rCrc = c := rfl
@[simp] theorem setCrc_rCrcRx (s : State) (c r : Word) : (s.setCrc c r).regs.rCrcRx = r := rfl
@[simp] theorem setCrc_tcf (s : State) (c r : Word) : (s.setCrc c r).regs.tcf = s.regs.tcf := rfl
@[simp] theorem setCrc_cntCorrupt (s : State) (c r : Word) : (s.setCrc c r).regs.cntCorrupt = s.regs.cntCorrupt := rfl
@[simp] theorem setCrc_params (s : State) (c r : Word) : (s.setCrc c r).params = s.params := rfl
@[simp] theorem setCrc_buf (s : State) (c r : Word) : (s.setCrc c r).buf = s.buf := rfl
@[simp] theorem setCrc_epoch (s : State) (c r : Word) : (s.setCrc c r).epoch = s.epoch := rfl
@[simp] theorem setCrc_inputs (s : State) (c r : Word) : (s.setCrc c r).inputs = s.inputs := rfl
@[simp] theorem setCrc_replies (s : State) (c r : Word) : (s.setCrc c r).replies = s.replies := rfl

/-! ## `State.softReset` -/

@[simp] theorem softReset_regs (s : State) : s.softReset.regs = Registers.reset := rfl
@[simp] theorem softReset_params (s : State) : s.softReset.params = s.params := rfl
@[simp] theorem softReset_buf (s : State) : s.softReset.buf = s.buf := rfl
@[simp] theorem softReset_epoch (s : State) : s.softReset.epoch = s.epoch := rfl
@[simp] theorem softReset_inputs (s : State) : s.softReset.inputs = s.inputs := rfl
@[simp] theorem softReset_replies (s : State) : s.softReset.replies = s.replies := rfl

/-! ## `State.hardReset` -/

@[simp] theorem hardReset_regs (s : State) : s.hardReset.regs = Registers.reset := rfl
@[simp] theorem hardReset_params (s : State) : s.hardReset.params = s.params := rfl
@[simp] theorem hardReset_buf (s : State) : s.hardReset.buf = [] := rfl
@[simp] theorem hardReset_epoch (s : State) : s.hardReset.epoch = s.epoch + 1 := rfl
@[simp] theorem hardReset_inputs (s : State) : s.hardReset.inputs = s.inputs := rfl
@[simp] theorem hardReset_replies (s : State) : s.hardReset.replies = s.replies := rfl

/-! ## `State.reply` -/

@[simp] theorem reply_regs (s : State) (r : Reply) : (s.reply r).regs = s.regs := rfl
@[simp] theorem reply_params (s : State) (r : Reply) : (s.reply r).params = s.params := rfl
@[simp] theorem reply_buf (s : State) (r : Reply) : (s.reply r).buf = s.buf := rfl
@[simp] theorem reply_epoch (s : State) (r : Reply) : (s.reply r).epoch = s.epoch := rfl
@[simp] theorem reply_inputs (s : State) (r : Reply) : (s.reply r).inputs = s.inputs := rfl
@[simp] theorem reply_replies (s : State) (r : Reply) : (s.reply r).replies = s.replies ++ [r] := rfl

/-! ## Writing the buffer leaves every other field -/

@[simp] theorem setByte_regs (s : State) (a : Nat) (v : Byte) : (s.setByte a v).regs = s.regs := by
  unfold State.setByte; split <;> rfl

@[simp] theorem memWrite_regs (s : State) (a n v : Nat) : (s.memWrite a n v).regs = s.regs := by
  induction n generalizing s a with
  | zero => rfl
  | succ n ih => simp [State.memWrite, ih]

@[simp] theorem zeroFill_regs (s : State) (a n : Nat) : (s.zeroFill a n).regs = s.regs := by
  induction n generalizing s a with
  | zero => rfl
  | succ n ih => simp [State.zeroFill, ih]

@[simp] theorem tcHeader_regs (s : State) : (tcHeader s).regs = s.regs := by simp [tcHeader]

@[simp] theorem tcTrailer_regs (s : State) : (tcTrailer s).regs = s.regs := by
  unfold tcTrailer; split <;> simp

@[simp] theorem setByte_params (s : State) (a : Nat) (v : Byte) : (s.setByte a v).params = s.params := by
  unfold State.setByte; split <;> rfl

@[simp] theorem memWrite_params (s : State) (a n v : Nat) : (s.memWrite a n v).params = s.params := by
  induction n generalizing s a with
  | zero => rfl
  | succ n ih => simp [State.memWrite, ih]

@[simp] theorem zeroFill_params (s : State) (a n : Nat) : (s.zeroFill a n).params = s.params := by
  induction n generalizing s a with
  | zero => rfl
  | succ n ih => simp [State.zeroFill, ih]

@[simp] theorem tcHeader_params (s : State) : (tcHeader s).params = s.params := by simp [tcHeader]

@[simp] theorem tcTrailer_params (s : State) : (tcTrailer s).params = s.params := by
  unfold tcTrailer; split <;> simp

@[simp] theorem setByte_epoch (s : State) (a : Nat) (v : Byte) : (s.setByte a v).epoch = s.epoch := by
  unfold State.setByte; split <;> rfl

@[simp] theorem memWrite_epoch (s : State) (a n v : Nat) : (s.memWrite a n v).epoch = s.epoch := by
  induction n generalizing s a with
  | zero => rfl
  | succ n ih => simp [State.memWrite, ih]

@[simp] theorem zeroFill_epoch (s : State) (a n : Nat) : (s.zeroFill a n).epoch = s.epoch := by
  induction n generalizing s a with
  | zero => rfl
  | succ n ih => simp [State.zeroFill, ih]

@[simp] theorem tcHeader_epoch (s : State) : (tcHeader s).epoch = s.epoch := by simp [tcHeader]

@[simp] theorem tcTrailer_epoch (s : State) : (tcTrailer s).epoch = s.epoch := by
  unfold tcTrailer; split <;> simp

@[simp] theorem setByte_inputs (s : State) (a : Nat) (v : Byte) : (s.setByte a v).inputs = s.inputs := by
  unfold State.setByte; split <;> rfl

@[simp] theorem memWrite_inputs (s : State) (a n v : Nat) : (s.memWrite a n v).inputs = s.inputs := by
  induction n generalizing s a with
  | zero => rfl
  | succ n ih => simp [State.memWrite, ih]

@[simp] theorem zeroFill_inputs (s : State) (a n : Nat) : (s.zeroFill a n).inputs = s.inputs := by
  induction n generalizing s a with
  | zero => rfl
  | succ n ih => simp [State.zeroFill, ih]

@[simp] theorem tcHeader_inputs (s : State) : (tcHeader s).inputs = s.inputs := by simp [tcHeader]

@[simp] theorem tcTrailer_inputs (s : State) : (tcTrailer s).inputs = s.inputs := by
  unfold tcTrailer; split <;> simp

@[simp] theorem setByte_replies (s : State) (a : Nat) (v : Byte) : (s.setByte a v).replies = s.replies := by
  unfold State.setByte; split <;> rfl

@[simp] theorem memWrite_replies (s : State) (a n v : Nat) : (s.memWrite a n v).replies = s.replies := by
  induction n generalizing s a with
  | zero => rfl
  | succ n ih => simp [State.memWrite, ih]

@[simp] theorem zeroFill_replies (s : State) (a n : Nat) : (s.zeroFill a n).replies = s.replies := by
  induction n generalizing s a with
  | zero => rfl
  | succ n ih => simp [State.zeroFill, ih]

@[simp] theorem tcHeader_replies (s : State) : (tcHeader s).replies = s.replies := by simp [tcHeader]

@[simp] theorem tcTrailer_replies (s : State) : (tcTrailer s).replies = s.replies := by
  unfold tcTrailer; split <;> simp

end Sys2Proof.Machine
end

