-- ==== Sys2Proof/Laws/Memory.lean ====
section
/-! SUPPORT. The buffer as data: a read after a write, and the canonical form kept by every memory operation. -/

namespace Sys2Proof.Machine

/-! ## Cells -/

theorem get?_set_same (a : Nat) (v : Byte) (m : Memory) : Memory.get? a (Memory.set a v m) = some v := by
  induction m with
  | nil => simp [Memory.set, Memory.get?]
  | cons p m ih =>
    obtain ⟨b, w⟩ := p
    simp only [Memory.set]
    split
    · simp [Memory.get?]
    · split
      · simp [Memory.get?]
      · rename_i _ hne
        simp [Memory.get?, hne, ih]

theorem get?_set_other {a b : Nat} (h : b ≠ a) (v : Byte) (m : Memory) :
    Memory.get? b (Memory.set a v m) = Memory.get? b m := by
  induction m with
  | nil => simp [Memory.set, Memory.get?, h]
  | cons p m ih =>
    obtain ⟨c, w⟩ := p
    simp only [Memory.set]
    split
    · simp [Memory.get?, h]
    · split
      · rename_i _ hac
        subst hac
        simp [Memory.get?, h]
      · simp [Memory.get?, ih]

theorem get?_set (a b : Nat) (v : Byte) (m : Memory) :
    Memory.get? b (Memory.set a v m) = if b = a then some v else Memory.get? b m := by
  split
  · rename_i h
    rw [h, get?_set_same]
  · exact get?_set_other ‹_› v m

/-- Which cells a write leaves: the one written, and cells that were there. -/
theorem mem_set {a : Nat} {v : Byte} {m : Memory} {p : Host.Cell} (h : p ∈ Memory.set a v m) :
    p = (a, v) ∨ p ∈ m := by
  induction m with
  | nil => simpa [Memory.set] using h
  | cons q m ih =>
    obtain ⟨b, w⟩ := q
    simp only [Memory.set] at h
    split at h
    · simpa using h
    · split at h
      · rcases List.mem_cons.1 h with h | h
        · exact .inl h
        · exact .inr (List.mem_cons_of_mem _ h)
      · rcases List.mem_cons.1 h with h | h
        · exact .inr (by simp [h])
        · rcases ih h with h | h
          · exact .inl h
          · exact .inr (List.mem_cons_of_mem _ h)

theorem set_pairwise {a : Nat} {v : Byte} {m : Memory} (h : m.Pairwise (fun p q => p.1 < q.1)) :
    (Memory.set a v m).Pairwise (fun p q => p.1 < q.1) := by
  induction m with
  | nil => simp [Memory.set]
  | cons q m ih =>
    obtain ⟨b, w⟩ := q
    have hb := (List.pairwise_cons.1 h).1
    have hm := (List.pairwise_cons.1 h).2
    simp only [Memory.set]
    split
    · rename_i hab
      refine List.pairwise_cons.2 ⟨?_, h⟩
      intro p hp
      rcases List.mem_cons.1 hp with hp | hp
      · simpa [hp] using hab
      · exact Nat.lt_trans hab (hb p hp)
    · split
      · rename_i _ hab
        subst hab
        exact List.pairwise_cons.2 ⟨hb, hm⟩
      · rename_i h1 h2
        refine List.pairwise_cons.2 ⟨?_, ih hm⟩
        intro p hp
        rcases mem_set hp with hp | hp
        · subst hp
          show b < a
          omega
        · exact hb p hp

/-- A write inside the buffer keeps the canonical form. -/
theorem set_wf {size a : Nat} {v : Byte} {m : Memory} (h : Memory.wf size m) (ha : a < size) :
    Memory.wf size (Memory.set a v m) := by
  refine ⟨set_pairwise h.1, fun p hp => ?_⟩
  rcases mem_set hp with hp | hp
  · simpa [hp] using ha
  · exact h.2 p hp

/-- In canonical form two equal buffers are equal data. -/
theorem memory_ext {m m' : Memory} (h : m.Pairwise (fun p q => p.1 < q.1))
    (h' : m'.Pairwise (fun p q => p.1 < q.1)) (e : ∀ a, Memory.get? a m = Memory.get? a m') : m = m' := by
  have none_of_lt : ∀ {m : Memory} {a : Nat}, (∀ p ∈ m, a < p.1) → Memory.get? a m = none := by
    intro m a hm
    induction m with
    | nil => rfl
    | cons p m ih =>
      have h1 := hm p (by simp)
      have : a ≠ p.1 := by omega
      simp [Memory.get?, this, ih (fun q hq => hm q (List.mem_cons_of_mem _ hq))]
  induction m generalizing m' with
  | nil =>
    cases m' with
    | nil => rfl
    | cons q r =>
      have := e q.1
      simp [Memory.get?] at this
  | cons p l ih =>
    obtain ⟨a, v⟩ := p
    cases m' with
    | nil =>
      have := e a
      simp [Memory.get?] at this
    | cons q r =>
      obtain ⟨b, w⟩ := q
      have hp := List.pairwise_cons.1 h
      have hq := List.pairwise_cons.1 h'
      have hab : a = b := by
        rcases Nat.lt_trichotomy a b with hlt | heq | hgt
        · have h1 := e a
          have h2 : Memory.get? a ((b, w) :: r) = none := by
            refine none_of_lt fun p hp' => ?_
            rcases List.mem_cons.1 hp' with h3 | h3
            · simpa [h3] using hlt
            · exact Nat.lt_trans hlt (hq.1 p h3)
          rw [h2] at h1
          simp [Memory.get?] at h1
        · exact heq
        · have h1 := e b
          have h2 : Memory.get? b ((a, v) :: l) = none := by
            refine none_of_lt fun p hp' => ?_
            rcases List.mem_cons.1 hp' with h3 | h3
            · simpa [h3] using hgt
            · exact Nat.lt_trans hgt (hp.1 p h3)
          rw [h2] at h1
          simp [Memory.get?] at h1
      subst hab
      have hvw : v = w := by
        have := e a
        simpa [Memory.get?] using this
      subst hvw
      have : l = r := by
        refine ih hp.2 hq.2 fun c => ?_
        have hc := e c
        by_cases hca : c = a
        · subst hca
          rw [none_of_lt hp.1, none_of_lt hq.1]
        · simpa [Memory.get?, hca] using hc
      rw [this]

/-! ## Bytes of the state -/

/-- What a byte write does to every byte: the one written, if it lies inside `BUF`, and no other. -/
theorem byteAt_setByte (s : State) (a b : Nat) (v : Byte) :
    (s.setByte a v).byteAt b = if b = a ∧ a < s.params.bufSize then v else s.byteAt b := by
  unfold State.setByte
  by_cases ha : a < s.params.bufSize
  · simp only [ha, if_true, and_true, State.byteAt, get?_set]
    by_cases hb : b = a
    · subst hb
      simp [ha]
    · simp [hb]
  · simp [ha]

/-- Reading depends on the parameters, the buffer and the reset count only. -/
theorem byteAt_congr {s t : State} (hp : t.params = s.params) (hb : t.buf = s.buf) (he : t.epoch = s.epoch) (a : Nat) :
    t.byteAt a = s.byteAt a := by
  simp [State.byteAt, hp, hb, he]

/-- `MemRead` depends on the bytes it reads only. -/
theorem memRead_congr {s t : State} {a b n : Nat} (h : ∀ i < n, s.byteAt (a + i) = t.byteAt (b + i)) :
    s.memRead a n = t.memRead b n := by
  induction n generalizing a b with
  | zero => rfl
  | succ n ih =>
    have h0 := h 0 (by omega)
    have h1 : s.memRead (a + 1) n = t.memRead (b + 1) n := ih fun i hi => by
      have := h (i + 1) (by omega)
      simpa [Nat.add_assoc, Nat.add_comm 1 i] using this
    simp only [State.memRead, h1]
    simpa using h0 ▸ rfl

/-- A byte sequence depends on the bytes it reads only. -/
theorem bytes_congr {s t : State} {a b n : Nat} (h : ∀ i < n, s.byteAt (a + i) = t.byteAt (b + i)) :
    s.bytes a n = t.bytes b n := by
  induction n generalizing a b with
  | zero => rfl
  | succ n ih =>
    have h0 := h 0 (by omega)
    have h1 : s.bytes (a + 1) n = t.bytes (b + 1) n := ih fun i hi => by
      have := h (i + 1) (by omega)
      simpa [Nat.add_assoc, Nat.add_comm 1 i] using this
    simp only [State.bytes, h1]
    simpa using h0

@[simp] theorem bytes_length (s : State) (a n : Nat) : (s.bytes a n).length = n := by
  induction n generalizing a with
  | zero => rfl
  | succ n ih => simp [State.bytes, ih]

theorem bytes_getElem (s : State) (a n i : Nat) (h : i < (s.bytes a n).length) :
    (s.bytes a n)[i] = s.byteAt (a + i) := by
  induction n generalizing a i with
  | zero => simp at h
  | succ n ih =>
    cases i with
    | zero => simp [State.bytes]
    | succ i =>
      simp only [State.bytes, List.getElem_cons_succ]
      rw [ih]
      congr 1
      omega

/-- A range splits where it is cut. -/
theorem bytes_append (s : State) (a n k : Nat) : s.bytes a (n + k) = s.bytes a n ++ s.bytes (a + n) k := by
  induction n generalizing a with
  | zero => simp [State.bytes]
  | succ n ih =>
    have h1 : n + 1 + k = (n + k) + 1 := by omega
    have h2 : a + (n + 1) = a + 1 + n := by omega
    rw [h1, h2]
    simp [State.bytes, ih]

theorem memRead_lt (s : State) (a n : Nat) : s.memRead a n < 2 ^ (8 * n) := by
  induction n generalizing a with
  | zero => simp [State.memRead]
  | succ n ih =>
    have h1 := ih (a + 1)
    have h2 := (s.byteAt a).isLt
    have h3 : 2 ^ (8 * (n + 1)) = 2 ^ 8 * 2 ^ (8 * n) := by rw [← pow_add]; congr 1; omega
    simp only [State.memRead]
    rw [h3]
    nlinarith [Nat.zero_le (2 ^ (8 * n))]

/-- What `MemWrite` does to every byte of a range inside `BUF`: the range holds the low bytes of the value, the most
significant first, and no other byte changes. -/
theorem byteAt_memWrite (s : State) (a n v b : Nat) (h : a + n ≤ s.params.bufSize) :
    (s.memWrite a n v).byteAt b =
      if a ≤ b ∧ b < a + n then BitVec.ofNat 8 (v >>> (8 * (n - 1 - (b - a)))) else s.byteAt b := by
  induction n generalizing s a with
  | zero =>
    simp [State.memWrite]
  | succ n ih =>
    simp only [State.memWrite]
    rw [ih _ _ (by simpa using by omega), byteAt_setByte]
    by_cases hb : b = a
    · subst hb
      have h1 : ¬ (b + 1 ≤ b ∧ b < b + 1 + n) := by omega
      have h2 : b < s.params.bufSize := by omega
      simp [h2]
    · by_cases hr : a ≤ b ∧ b < a + (n + 1)
      · have h1 : a + 1 ≤ b ∧ b < a + 1 + n := by omega
        have h2 : n - 1 - (b - (a + 1)) = n + 1 - 1 - (b - a) := by omega
        rw [if_pos h1, if_pos hr, h2]
      · have h1 : ¬ (a + 1 ≤ b ∧ b < a + 1 + n) := by omega
        rw [if_neg h1, if_neg hr]
        simp [hb]

/-- Bytes that hold a value big-endian read back as its low bytes. -/
theorem memRead_of_bytes (t : State) (a n v : Nat)
    (h : ∀ i < n, t.byteAt (a + i) = BitVec.ofNat 8 (v >>> (8 * (n - 1 - i)))) :
    t.memRead a n = v % 2 ^ (8 * n) := by
  induction n generalizing a with
  | zero => simp [State.memRead, Nat.mod_one]
  | succ n ih =>
    have h0 := h 0 (by omega)
    have h1 := ih (a + 1) fun i hi => by
      have h2 := h (i + 1) (by omega)
      rw [show a + 1 + i = a + (i + 1) by omega, h2]
      congr 3
      omega
    simp only [State.memRead, h1]
    simp only [Nat.add_zero, Nat.add_sub_cancel, Nat.sub_zero] at h0
    have h3 : 2 ^ (8 * (n + 1)) = 2 ^ (8 * n) * 256 := by
      rw [show 8 * (n + 1) = 8 * n + 8 by omega, pow_add]
      norm_num
    rw [h0, h3, Nat.mod_mul]
    simp [Nat.shiftRight_eq_div_pow]
    ring

/-- The bytes of the value `MemRead` returns are the bytes it read. -/
theorem byte_of_memRead (s : State) (a n i : Nat) (h : i < n) :
    BitVec.ofNat 8 (s.memRead a n >>> (8 * (n - 1 - i))) = s.byteAt (a + i) := by
  induction n generalizing a i with
  | zero => omega
  | succ n ih =>
    simp only [State.memRead]
    cases i with
    | zero =>
      have h1 := memRead_lt s (a + 1) n
      have h2 := (s.byteAt a).isLt
      apply BitVec.eq_of_toNat_eq
      simp [Nat.shiftRight_eq_div_pow]
      rw [Nat.add_div_of_dvd_right (Dvd.intro_left _ rfl), Nat.div_eq_of_lt h1,
        Nat.mul_div_cancel _ (by positivity)]
      omega
    | succ i =>
      have h1 := ih (a + 1) i (by omega)
      rw [show a + (i + 1) = a + 1 + i by omega, ← h1, show n + 1 - 1 - (i + 1) = n - 1 - i by omega]
      apply BitVec.eq_of_toNat_eq
      simp only [BitVec.toNat_ofNat, Nat.shiftRight_eq_div_pow]
      have h3 : 2 ^ (8 * n) = 2 ^ (8 * (n - 1 - i)) * (256 * 2 ^ (8 * i)) := by
        rw [show (256 : Nat) = 2 ^ 8 by norm_num, ← pow_add, ← pow_add]
        congr 1
        omega
      rw [h3, show (s.byteAt a).toNat * (2 ^ (8 * (n - 1 - i)) * (256 * 2 ^ (8 * i)))
        = 2 ^ (8 * (n - 1 - i)) * (256 * 2 ^ (8 * i) * (s.byteAt a).toNat) by ring,
        Nat.mul_add_div (by positivity), mul_assoc]
      omega

/-- What the zero fill does to every byte of a range inside `BUF`. -/
theorem byteAt_zeroFill (s : State) (a n b : Nat) (h : a + n ≤ s.params.bufSize) :
    (s.zeroFill a n).byteAt b = if a ≤ b ∧ b < a + n then 0#8 else s.byteAt b := by
  induction n generalizing s a with
  | zero =>
    simp [State.zeroFill]
  | succ n ih =>
    simp only [State.zeroFill]
    rw [ih _ _ (by simpa using by omega), byteAt_setByte]
    by_cases hb : b = a
    · subst hb
      have h2 : b < s.params.bufSize := by omega
      simp [h2]
    · by_cases hr : a ≤ b ∧ b < a + (n + 1)
      · have h1 : a + 1 ≤ b ∧ b < a + 1 + n := by omega
        rw [if_pos h1, if_pos hr]
      · have h1 : ¬ (a + 1 ≤ b ∧ b < a + 1 + n) := by omega
        rw [if_neg h1, if_neg hr]
        simp [hb]

/-! ## Updates of registers leave every byte -/

@[simp] theorem done_byteAt (s : State) (a : Nat) : s.done.byteAt a = s.byteAt a := rfl
@[simp] theorem raise_byteAt (s : State) (e : Failure) (a : Nat) : (s.raise e).byteAt a = s.byteAt a := rfl
@[simp] theorem setCrc_byteAt (s : State) (x y : Word) (a : Nat) : (s.setCrc x y).byteAt a = s.byteAt a := rfl
@[simp] theorem clearResults_byteAt (s : State) (a : Nat) : s.clearResults.byteAt a = s.byteAt a := rfl
@[simp] theorem writeResults_byteAt (s : State) (p : Parsed) (a : Nat) : (s.writeResults p).byteAt a = s.byteAt a := rfl
@[simp] theorem tcInvalidate_byteAt (s : State) (a : Nat) : s.tcInvalidate.byteAt a = s.byteAt a := rfl
@[simp] theorem tcLatch_byteAt (s : State) (d : TcDescriptor) (a : Nat) : (s.tcLatch d).byteAt a = s.byteAt a := rfl
@[simp] theorem softReset_byteAt (s : State) (a : Nat) : s.softReset.byteAt a = s.byteAt a := rfl

/-! ## The canonical form is kept -/

theorem setByte_wf {s : State} (h : Memory.wf s.params.bufSize s.buf) (a : Nat) (v : Byte) :
    Memory.wf s.params.bufSize (s.setByte a v).buf := by
  unfold State.setByte
  split
  · exact set_wf h ‹_›
  · exact h

theorem memWrite_wf {s : State} (h : Memory.wf s.params.bufSize s.buf) (a n v : Nat) :
    Memory.wf s.params.bufSize (s.memWrite a n v).buf := by
  induction n generalizing s a with
  | zero => exact h
  | succ n ih =>
    simp only [State.memWrite]
    have := ih (s := s.setByte a (BitVec.ofNat 8 (v >>> (8 * n)))) (by simpa using setByte_wf h a _) (a + 1)
    simpa using this

theorem zeroFill_wf {s : State} (h : Memory.wf s.params.bufSize s.buf) (a n : Nat) :
    Memory.wf s.params.bufSize (s.zeroFill a n).buf := by
  induction n generalizing s a with
  | zero => exact h
  | succ n ih =>
    simp only [State.zeroFill]
    have := ih (s := s.setByte a 0#8) (by simpa using setByte_wf h a _) (a + 1)
    simpa using this

theorem tcHeader_wf {s : State} (h : Memory.wf s.params.bufSize s.buf) :
    Memory.wf s.params.bufSize (tcHeader s).buf := by
  unfold tcHeader
  have h1 := memWrite_wf h s.regs.tcf.base.toNat 2 (tcWord0 s.regs).toNat
  have h2 := memWrite_wf (s := s.memWrite s.regs.tcf.base.toNat 2 (tcWord0 s.regs).toNat) (by simpa using h1)
    (s.regs.tcf.base.toNat + 2) 2 (tcWord1 s.regs).toNat
  have h3 := setByte_wf (s := (s.memWrite s.regs.tcf.base.toNat 2 (tcWord0 s.regs).toNat).memWrite
    (s.regs.tcf.base.toNat + 2) 2 (tcWord1 s.regs).toNat) (by simpa using h2) (s.regs.tcf.base.toNat + 4) s.regs.tcCtl.seq
  simpa using h3

theorem tcTrailer_wf {s : State} (h : Memory.wf s.params.bufSize s.buf) :
    Memory.wf s.params.bufSize (tcTrailer s).buf := by
  unfold tcTrailer
  split
  · exact memWrite_wf h _ _ _
  · exact h

theorem hardReset_wf (s : State) : Memory.wf s.params.bufSize s.hardReset.buf := by
  simp [State.hardReset, Memory.wf]

/-- The reset state's buffer is in canonical form. -/
theorem reset_buf_wf : Memory.wf State.reset.params.bufSize State.reset.buf := by
  simp [State.reset, Memory.wf]

end Sys2Proof.Machine
end

