-- ==== Sys2Proof/Laws/Ops.lean ====
section
/-! SUPPORT. For each shared operation, once, everything it can do; a proof cites these and unfolds nothing. -/

namespace Sys2Proof.Machine

/-! ## Big-endian integers -/

/-- One more byte at the front of a byte sequence. -/
theorem foldl_bigEndian (bytes : List Byte) (acc : Nat) :
    bytes.foldl (fun acc b => acc * 256 + b.toNat) acc = acc * 2 ^ (8 * bytes.length) + bigEndian bytes := by
  induction bytes generalizing acc with
  | nil => simp [bigEndian]
  | cons b l ih =>
    have h2 : (2 : Nat) ^ (8 * (l.length + 1)) = 256 * 2 ^ (8 * l.length) := by
      rw [show 8 * (l.length + 1) = 8 + 8 * l.length by omega, pow_add]; norm_num
    simp only [bigEndian, List.foldl_cons, List.length_cons]
    rw [ih, ih (0 * 256 + b.toNat), h2]
    ring

theorem bigEndian_cons (b : Byte) (l : List Byte) :
    bigEndian (b :: l) = b.toNat * 2 ^ (8 * l.length) + bigEndian l := by
  have := foldl_bigEndian l (0 * 256 + b.toNat)
  simpa [bigEndian] using this

/-- `MemRead` is the big-endian integer of the bytes it reads (00_scope.md R12, 20_memory.md R63). -/
theorem bigEndian_bytes (s : State) (a n : Nat) : bigEndian (s.bytes a n) = s.memRead a n := by
  induction n generalizing a with
  | zero => rfl
  | succ n ih => simp [State.bytes, State.memRead, bigEndian_cons, ih]

/-! ## CRC commands -/

/-- CRC16 and CRC32: out of bounds, or computed. -/
theorem computeCrc_cases (f : List Byte → Word) (s : State) :
    (s.params.bufSize < s.base + s.length ∧ computeCrc f s = s.raise .bounds) ∨
    (s.base + s.length ≤ s.params.bufSize ∧
      computeCrc f s = (s.setCrc (f (s.bytes s.base s.length)) 0#32).done) := by
  unfold computeCrc
  split
  · exact .inl ⟨‹_›, rfl⟩
  · exact .inr ⟨by omega, rfl⟩

/-- CHK16 and CHK32: out of bounds, too short, mismatch, or intact. -/
theorem checkCrc_cases (f : List Byte → Word) (c : Nat) (s : State) :
    let computed := f (s.bytes s.base (s.length - c))
    let received := BitVec.ofNat 32 (s.memRead (s.base + s.length - c) c)
    (s.params.bufSize < s.base + s.length ∧ checkCrc f c s = s.raise .bounds) ∨
    (s.base + s.length ≤ s.params.bufSize ∧ s.length < c ∧ checkCrc f c s = s.raise (.corrupt .length)) ∨
    (s.base + s.length ≤ s.params.bufSize ∧ c ≤ s.length ∧ computed ≠ received ∧
      checkCrc f c s = (s.setCrc computed received).raise (.corrupt .crc)) ∨
    (s.base + s.length ≤ s.params.bufSize ∧ c ≤ s.length ∧ computed = received ∧
      checkCrc f c s = (s.setCrc computed received).done) := by
  intro computed received
  unfold checkCrc
  by_cases h1 : s.outside s.base s.length
  · exact .inl ⟨h1, if_pos h1⟩
  · rw [if_neg h1]
    by_cases h2 : s.length < c
    · exact .inr (.inl ⟨by omega, h2, if_pos h2⟩)
    · rw [if_neg h2]
      by_cases h3 : computed ≠ received
      · exact .inr (.inr (.inl ⟨by omega, by omega, h3, if_pos h3⟩))
      · exact .inr (.inr (.inr ⟨by omega, by omega, not_not.1 h3, if_neg h3⟩))

/-- The CRC step of a parse command: the CRC and the field agree and are reported, or E_CORRUPT(SUB_CRC). -/
theorem crcStep_cases (s : State) (ed : ErrDet) (flen : Nat) :
    let computed := detectionCrc s.params (s.bytes s.base (flen - ed.fieldLength)) ed
    let received := BitVec.ofNat 32 (s.memRead (s.base + flen - ed.fieldLength) ed.fieldLength)
    (computed ≠ received ∧ crcStep s ed flen = .error (.corrupt .crc)) ∨
    (computed = received ∧ crcStep s ed flen = .ok (computed, received)) := by
  intro computed received
  by_cases h : computed ≠ received
  · exact .inl ⟨h, if_pos h⟩
  · exact .inr ⟨not_not.1 h, if_neg h⟩

/-! ## Big-endian commands -/

/-- RDBE: illegal width, out of bounds, or the value read. -/
theorem execRdbe_cases (n : BitVec 4) (s : State) :
    (¬ legalWidth n ∧ execRdbe n s = .next (s.raise .illCmd)) ∨
    (legalWidth n ∧ s.params.bufSize < s.base + n.toNat ∧ execRdbe n s = .next (s.raise .bounds)) ∨
    (legalWidth n ∧ s.base + n.toNat ≤ s.params.bufSize ∧
      execRdbe n s = .next ({ s with regs := { s.regs with
        valLo := BitVec.ofNat 32 (s.memRead s.base n.toNat)
        valHi := BitVec.ofNat 32 (s.memRead s.base n.toNat >>> 32) } } : State).done) := by
  unfold execRdbe
  by_cases h1 : legalWidth n
  · rw [if_neg (not_not.2 h1)]
    by_cases h2 : s.outside s.base n.toNat
    · exact .inr (.inl ⟨h1, h2, if_pos h2⟩)
    · exact .inr (.inr ⟨h1, by omega, if_neg h2⟩)
  · exact .inl ⟨h1, if_pos h1⟩

/-- WRBE: illegal width, out of bounds, or the value written. -/
theorem execWrbe_cases (n : BitVec 4) (s : State) :
    (¬ legalWidth n ∧ execWrbe n s = .next (s.raise .illCmd)) ∨
    (legalWidth n ∧ s.params.bufSize < s.base + n.toNat ∧ execWrbe n s = .next (s.raise .bounds)) ∨
    (legalWidth n ∧ s.base + n.toNat ≤ s.params.bufSize ∧
      execWrbe n s = .next (s.memWrite s.base n.toNat s.val).done) := by
  unfold execWrbe
  by_cases h1 : legalWidth n
  · rw [if_neg (not_not.2 h1)]
    by_cases h2 : s.outside s.base n.toNat
    · exact .inr (.inl ⟨h1, h2, if_pos h2⟩)
    · exact .inr (.inr ⟨h1, by omega, if_neg h2⟩)
  · exact .inl ⟨h1, if_pos h1⟩

/-! ## TC commands -/

/-- TCMK: too long, out of bounds, or a zeroed frame with its descriptor latched. -/
theorem execTcmk_cases (vcid : BitVec 6) (plen : BitVec 10) (s : State) :
    let flen := tcmkLength s plen
    ((s.regs.tcCfg.maxlen.toNat < flen ∨ 1024 < flen) ∧
      execTcmk vcid plen s = .next (s.tcInvalidate.raise .tooLong)) ∨
    (flen ≤ s.regs.tcCfg.maxlen.toNat ∧ flen ≤ 1024 ∧ s.params.bufSize < s.base + flen ∧
      execTcmk vcid plen s = .next (s.tcInvalidate.raise .bounds)) ∨
    (flen ≤ s.regs.tcCfg.maxlen.toNat ∧ flen ≤ 1024 ∧ s.base + flen ≤ s.params.bufSize ∧
      execTcmk vcid plen s = .next ((s.zeroFill s.base flen).tcLatch
        { base := BitVec.ofNat 17 s.base, flen := BitVec.ofNat 11 flen, vcid := vcid, crc := s.regs.cfg.tcCrc
          dstart := 5#11, dend := BitVec.ofNat 11 (5 + plen.toNat) }).done) := by
  intro flen
  unfold execTcmk
  by_cases h1 : flen > s.regs.tcCfg.maxlen.toNat ∨ flen > tcMaxFlen
  · exact .inl ⟨h1, if_pos h1⟩
  · have h1' : flen ≤ s.regs.tcCfg.maxlen.toNat ∧ flen ≤ 1024 := by
      have : tcMaxFlen = 1024 := rfl
      omega
    by_cases h2 : s.outside s.base flen
    · exact .inr (.inl ⟨h1'.1, h1'.2, h2, (if_neg h1).trans (if_pos h2)⟩)
    · exact .inr (.inr ⟨h1'.1, h1'.2, by omega, (if_neg h1).trans (if_neg h2)⟩)

/-- TCENC: no frame, too long, a descriptor no run can hold, or the frame encoded. -/
theorem execTcenc_cases (s : State) :
    (s.regs.status.tcvalid = false ∧ execTcenc s = .next (s.raise .noFrame)) ∨
    (s.regs.status.tcvalid = true ∧ s.regs.tcCfg.maxlen.toNat < s.regs.tcf.flen.toNat ∧
      execTcenc s = .next (s.raise .tooLong)) ∨
    (s.regs.status.tcvalid = true ∧ s.regs.tcf.flen.toNat ≤ s.regs.tcCfg.maxlen.toNat ∧ ¬ tcFrameInside s ∧
      execTcenc s = .fault .tcFrameOutsideBuffer) ∨
    (s.regs.status.tcvalid = true ∧ s.regs.tcf.flen.toNat ≤ s.regs.tcCfg.maxlen.toNat ∧ tcFrameInside s ∧
      execTcenc s = .next (tcTrailer (tcHeader s)).done) := by
  unfold execTcenc
  by_cases h1 : s.regs.status.tcvalid = false
  · exact .inl ⟨h1, if_pos h1⟩
  · have h1' : s.regs.status.tcvalid = true := by simpa using h1
    rw [if_neg h1]
    by_cases h2 : s.regs.tcf.flen.toNat > s.regs.tcCfg.maxlen.toNat
    · exact .inr (.inl ⟨h1', h2, if_pos h2⟩)
    · rw [if_neg h2]
      by_cases h3 : tcFrameInside s
      · exact .inr (.inr (.inr ⟨h1', by omega, h3, if_neg (not_not.2 h3)⟩))
      · exact .inr (.inr (.inl ⟨h1', by omega, h3, if_pos h3⟩))

/-! ## Parse commands -/

/-- The end of a parse command: the failure and cleared results, or success and the results. -/
theorem finishParse_cases (s : State) (r : Except Failure Parsed) :
    (∃ e, r = .error e ∧ s.finishParse r = s.clearResults.raise e) ∨
    (∃ p, r = .ok p ∧ s.finishParse r = (s.clearResults.writeResults p).done) := by
  cases r with
  | error e => exact .inl ⟨e, rfl, rfl⟩
  | ok p => exact .inr ⟨p, rfl, rfl⟩

/-! ## Every command -/

/-- The one next state, out of an equation between next states. -/
theorem next_inj {a b : State} (h : (Host.Outcome.next a : Host.Outcome State Fault Refusal) = .next b) : a = b :=
  Host.Outcome.next.inj h

/-- Everything a command that goes on can leave, by the updates it makes; each ends in one of the two completions of
60_exceptions.md R223 and R224. -/
inductive Completes (s : State) : Instr → State → Prop where
  | nop : Completes s .nop s.done
  | clrerr : Completes s .clrerr ({ s with regs := { s.regs with errFlags := 0#7 } } : State).done
  | srst : Completes s .srst s.softReset.done
  /-- An error before any register was written; parse commands and TCMK clear their results first. -/
  | raised (i : Instr) (e : Failure) (h : i ∉ [.nop, .clrerr, .srst, .ptm, .paos, .puslp])
      (hmk : ∀ vcid plen, i ≠ .tcmk vcid plen) : Completes s i (s.raise e)
  | crcDone (i : Instr) (computed received : Word) (h : i ∈ [.crc16, .crc32, .chk16, .chk32]) :
      Completes s i (s.setCrc computed received).done
  | crcMismatch (i : Instr) (computed received : Word) (h : i ∈ [.chk16, .chk32]) :
      Completes s i ((s.setCrc computed received).raise (.corrupt .crc))
  | read (n : BitVec 4) (lo hi : Word) :
      Completes s (.rdbe n) ({ s with regs := { s.regs with valLo := lo, valHi := hi } } : State).done
  | write (n : BitVec 4) : Completes s (.wrbe n) (s.memWrite s.base n.toNat s.val).done
  | parseFailed (i : Instr) (e : Failure) (h : i ∈ [.ptm, .paos, .puslp]) : Completes s i (s.clearResults.raise e)
  | parsed (i : Instr) (p : Parsed) (h : i ∈ [.ptm, .paos, .puslp]) :
      Completes s i (s.clearResults.writeResults p).done
  | notMade (vcid : BitVec 6) (plen : BitVec 10) (e : Failure) : Completes s (.tcmk vcid plen) (s.tcInvalidate.raise e)
  | made (vcid : BitVec 6) (plen : BitVec 10) (d : TcDescriptor) :
      Completes s (.tcmk vcid plen) ((s.zeroFill s.base (tcmkLength s plen)).tcLatch d).done
  | encoded : Completes s .tcenc (tcTrailer (tcHeader s)).done

/-- What a command that goes on leaves. -/
theorem exec_completes {i : Instr} {s t : State} (h : exec i s = .next t) : Completes s i t := by
  cases i with
  | nop => exact next_inj h ▸ .nop
  | clrerr => exact next_inj h ▸ .clrerr
  | srst => exact next_inj h ▸ .srst
  | crc16 =>
    rcases computeCrc_cases (fun m => (crc16 m).setWidth 32) s with ⟨-, e⟩ | ⟨-, e⟩ <;> rw [← next_inj h, e]
    exacts [.raised _ _ (by simp) (by simp), .crcDone _ _ _ (by simp)]
  | crc32 =>
    rcases computeCrc_cases (crc32 s.params) s with ⟨-, e⟩ | ⟨-, e⟩ <;> rw [← next_inj h, e]
    exacts [.raised _ _ (by simp) (by simp), .crcDone _ _ _ (by simp)]
  | chk16 =>
    rcases checkCrc_cases (fun m => (crc16 m).setWidth 32) 2 s with
      ⟨-, e⟩ | ⟨-, -, e⟩ | ⟨-, -, -, e⟩ | ⟨-, -, -, e⟩ <;> rw [← next_inj h, e]
    exacts [.raised _ _ (by simp) (by simp), .raised _ _ (by simp) (by simp), .crcMismatch _ _ _ (by simp),
      .crcDone _ _ _ (by simp)]
  | chk32 =>
    rcases checkCrc_cases (crc32 s.params) 4 s with
      ⟨-, e⟩ | ⟨-, -, e⟩ | ⟨-, -, -, e⟩ | ⟨-, -, -, e⟩ <;> rw [← next_inj h, e]
    exacts [.raised _ _ (by simp) (by simp), .raised _ _ (by simp) (by simp), .crcMismatch _ _ _ (by simp),
      .crcDone _ _ _ (by simp)]
  | rdbe n =>
    rcases execRdbe_cases n s with ⟨-, e⟩ | ⟨-, -, e⟩ | ⟨-, -, e⟩ <;> rw [← next_inj (e.symm.trans h)]
    exacts [.raised _ _ (by simp) (by simp), .raised _ _ (by simp) (by simp), .read _ _ _]
  | wrbe n =>
    rcases execWrbe_cases n s with ⟨-, e⟩ | ⟨-, -, e⟩ | ⟨-, -, e⟩ <;> rw [← next_inj (e.symm.trans h)]
    exacts [.raised _ _ (by simp) (by simp), .raised _ _ (by simp) (by simp), .write _]
  | ptm =>
    rcases finishParse_cases s (tmParse s) with ⟨e, -, he⟩ | ⟨p, -, he⟩ <;> rw [← next_inj h, he]
    exacts [.parseFailed _ _ (by simp), .parsed _ _ (by simp)]
  | paos =>
    rcases finishParse_cases s (aosParse s) with ⟨e, -, he⟩ | ⟨p, -, he⟩ <;> rw [← next_inj h, he]
    exacts [.parseFailed _ _ (by simp), .parsed _ _ (by simp)]
  | puslp =>
    rcases finishParse_cases s (uslpParse s) with ⟨e, -, he⟩ | ⟨p, -, he⟩ <;> rw [← next_inj h, he]
    exacts [.parseFailed _ _ (by simp), .parsed _ _ (by simp)]
  | tcmk vcid plen =>
    rcases execTcmk_cases vcid plen s with ⟨-, e⟩ | ⟨-, -, -, e⟩ | ⟨-, -, -, e⟩ <;> rw [← next_inj (e.symm.trans h)]
    exacts [.notMade _ _ _, .notMade _ _ _, .made _ _ _]
  | tcenc =>
    rcases execTcenc_cases s with ⟨-, e⟩ | ⟨-, -, e⟩ | ⟨-, -, -, e⟩ | ⟨-, -, -, e⟩
    · exact next_inj (e.symm.trans h) ▸ .raised _ _ (by simp) (by simp)
    · exact next_inj (e.symm.trans h) ▸ .raised _ _ (by simp) (by simp)
    · cases h.symm.trans e
    · exact next_inj (e.symm.trans h) ▸ .encoded

/-- A step: nothing to do, a command, a register write, a buffer write, a read, or a hardware reset. -/
theorem step_cases (s : State) :
    (s.inputs = [] ∧ step s = .next s) ∨
    (∃ w rest, s.inputs = .access (.regWrite 0#6 w) :: rest ∧ step s = runCommand w { s with inputs := rest }) ∨
    (∃ f v rest, f ≠ 0#6 ∧ s.inputs = .access (.regWrite f v) :: rest ∧
      step s = .next (({ s with inputs := rest } : State).regStore f v)) ∨
    (∃ i v rest, s.inputs = .access (.bufWrite i v) :: rest ∧
      step s = .next (({ s with inputs := rest } : State).setByte i.toNat v)) ∨
    (∃ a r rest, s.inputs = .access a :: rest ∧ step s = .next (({ s with inputs := rest } : State).reply r)) ∨
    (∃ rest, s.inputs = .hardReset :: rest ∧ step s = .next ({ s with inputs := rest } : State).hardReset) := by
  unfold step
  match hs : s.inputs with
  | [] => exact .inl ⟨rfl, rfl⟩
  | .hardReset :: rest => exact .inr (.inr (.inr (.inr (.inr ⟨rest, rfl, rfl⟩))))
  | .access (.regRead f) :: rest => exact .inr (.inr (.inr (.inr (.inl ⟨_, _, rest, rfl, rfl⟩))))
  | .access (.bufRead i) :: rest => exact .inr (.inr (.inr (.inr (.inl ⟨_, _, rest, rfl, rfl⟩))))
  | .access (.bufWrite i v) :: rest => exact .inr (.inr (.inr (.inl ⟨i, v, rest, rfl, rfl⟩)))
  | .access (.regWrite f v) :: rest =>
    by_cases hf : f = 0#6
    · subst hf
      exact .inr (.inl ⟨v, rest, rfl, rfl⟩)
    · exact .inr (.inr (.inl ⟨f, v, rest, hf, rfl, by simp [takeInput, hostAccess, hf]⟩))

/-- A command word: its command, or E_ILLCMD. -/
theorem runCommand_cases (w : Word) (s : State) :
    (∃ i, decode w = .ok i ∧ runCommand w s = exec i s) ∨
    (∃ r, decode w = .error r ∧ runCommand w s = .next (s.raise .illCmd)) := by
  unfold runCommand
  cases h : decode w with
  | ok i => exact .inl ⟨i, rfl, rfl⟩
  | error r => exact .inr ⟨r, rfl, rfl⟩

end Sys2Proof.Machine
end

