-- ==== Sys2Proof/Laws/Layout.lean ====
section
/-! SUPPORT. Byte sequences laid out by the format tables, and what the TC header and trailer writes do to every byte
of the buffer. -/

namespace Sys2Proof.Machine

open Sys2Proof.Laws

@[simp] theorem wireBytes_length (n : Nat) (w : BitVec (8 * n)) : (wireBytes n w).length = n := by simp [wireBytes]

theorem wireBytes_getD (n : Nat) (w : BitVec (8 * n)) (i : Nat) (h : i < n) :
    (wireBytes n w).getD i 0#8 = w.extractLsb' (8 * (n - 1 - i)) 8 := by
  simp [wireBytes, List.getD, h]

/-- The five header bytes of the TC frame the descriptor and the configuration name (30_encoding.md R114). -/
abbrev tcHeaderOf (s : State) : List Byte :=
  tcHeaderBytes s.regs.tcCtl.bypass s.regs.tcCtl.cc s.regs.tcCfg.scid s.regs.tcf.vcid s.regs.tcf.flen.toNat
    s.regs.tcCtl.seq

/-- What writing the TC header does to every byte. -/
theorem byteAt_tcHeader (s : State) (a : Nat) (h : s.regs.tcf.base.toNat + 5 ≤ s.params.bufSize) :
    (tcHeader s).byteAt a =
      if s.regs.tcf.base.toNat ≤ a ∧ a < s.regs.tcf.base.toNat + 5 then
        (tcHeaderOf s).getD (a - s.regs.tcf.base.toNat) 0#8
      else s.byteAt a := by
  unfold tcHeader
  simp only []
  rw [byteAt_setByte, byteAt_memWrite _ _ _ _ _ (by simp; omega), byteAt_memWrite _ _ _ _ _ (by omega)]
  generalize s.regs.tcf.base.toNat = o at *
  by_cases hr : o ≤ a ∧ a < o + 5
  · rw [if_pos hr]
    obtain ⟨k, rfl⟩ : ∃ k, a = o + k := ⟨a - o, by omega⟩
    have hk5 : k < 5 := by omega
    rw [tcHeaderOf, tcHeaderBytes, wireBytes_getD _ _ _ (by omega)]
    have := s.regs.tcCfg.scid.isLt
    have := s.regs.tcf.vcid.isLt
    have := s.regs.tcCtl.seq.isLt
    have hb1 : s.regs.tcCtl.bypass.toNat ≤ 1 := by cases s.regs.tcCtl.bypass <;> simp
    have hb2 : s.regs.tcCtl.cc.toNat ≤ 1 := by cases s.regs.tcCtl.cc <;> simp
    interval_cases k
    · rw [if_neg (by omega), if_neg (by omega), if_pos (by omega)]
      simp only [tcWord0, toNat_eq_iff, toNat_append_eq, toNat_extract_eq, toNat_ofBool_eq,
        Nat.shiftRight_eq_div_pow, BitVec.toNat_ofNat]
      simp
      omega
    · rw [if_neg (by omega), if_neg (by omega), if_pos (by omega)]
      simp only [tcWord0, toNat_eq_iff, toNat_append_eq, toNat_extract_eq, toNat_ofBool_eq,
        Nat.shiftRight_eq_div_pow, BitVec.toNat_ofNat]
      simp
      omega
    · rw [if_neg (by omega), if_pos (by omega)]
      simp only [tcWord1, toNat_eq_iff, toNat_append_eq, toNat_extract_eq, toNat_ofBool_eq,
        Nat.shiftRight_eq_div_pow, BitVec.toNat_ofNat]
      simp
      omega
    · rw [if_neg (by omega), if_pos (by omega)]
      simp only [tcWord1, toNat_eq_iff, toNat_append_eq, toNat_extract_eq, toNat_ofBool_eq,
        Nat.shiftRight_eq_div_pow, BitVec.toNat_ofNat]
      simp
      omega
    · rw [if_pos (by simp; omega)]
      simp only [toNat_eq_iff, toNat_append_eq, toNat_extract_eq]
      simp
      omega
  · rw [if_neg hr, if_neg (by simp; omega), if_neg (by omega), if_neg (by omega)]

/-- The frame's bytes after the header was written: the header, then what was there. -/
theorem bytes_tcHeader (s : State) (n : Nat) (h : s.regs.tcf.base.toNat + 5 + n ≤ s.params.bufSize) :
    (tcHeader s).bytes s.regs.tcf.base.toNat (5 + n) = tcHeaderOf s ++ s.bytes (s.regs.tcf.base.toNat + 5) n := by
  have h5 : (tcHeaderOf s).length = 5 := wireBytes_length 5 _
  have header : (tcHeader s).bytes s.regs.tcf.base.toNat 5 = tcHeaderOf s := by
    apply List.ext_getElem
    · rw [bytes_length, h5]
    · intro i h1 h2
      rw [bytes_getElem, byteAt_tcHeader s _ (by omega)]
      rw [bytes_length] at h1
      rw [if_pos (by omega), Nat.add_sub_cancel_left, List.getD_eq_getElem _ _ h2]
  have data : (tcHeader s).bytes (s.regs.tcf.base.toNat + 5) n = s.bytes (s.regs.tcf.base.toNat + 5) n := by
    apply bytes_congr
    intro i hi
    rw [byteAt_tcHeader s _ (by omega), if_neg (by omega)]
  rw [bytes_append, header, data]

end Sys2Proof.Machine
end

