-- ==== Sys2Proof/Laws/PerInstr.lean ====
section
/-! SUPPORT. For each command: its encoding has the fixed bits of its row of the opcode table. -/

namespace Sys2Proof.Laws.TableRow

/-- The mask and the match of the command's row of the opcode table. -/
def row : Instr → Word × Word
  | .nop => (0xFFFFFFFF#32, 0x00000000#32)
  | .clrerr => (0xFFFFFFFF#32, 0x01000000#32)
  | .srst => (0xFFFFFFFF#32, 0x02000000#32)
  | .crc16 => (0xFFFFFFFF#32, 0x10000000#32)
  | .crc32 => (0xFFFFFFFF#32, 0x11000000#32)
  | .chk16 => (0xFFFFFFFF#32, 0x12000000#32)
  | .chk32 => (0xFFFFFFFF#32, 0x13000000#32)
  | .rdbe _ => (0xFFFFFFF0#32, 0x20000000#32)
  | .wrbe _ => (0xFFFFFFF0#32, 0x21000000#32)
  | .ptm => (0xFFFFFFFF#32, 0x30000000#32)
  | .paos => (0xFFFFFFFF#32, 0x31000000#32)
  | .puslp => (0xFFFFFFFF#32, 0x32000000#32)
  | .tcmk _ _ => (0xFFFF0000#32, 0x40000000#32)
  | .tcenc => (0xFFFFFFFF#32, 0x41000000#32)

/-- The encoding has the row's fixed bits (30_encoding.md R92, R93). -/
def Statement (i : Instr) : Prop := encode i &&& (row i).1 = (row i).2

theorem nop : Statement .nop := by unfold Statement; decide
theorem clrerr : Statement .clrerr := by unfold Statement; decide
theorem srst : Statement .srst := by unfold Statement; decide
theorem crc16 : Statement .crc16 := by unfold Statement; decide
theorem crc32 : Statement .crc32 := by unfold Statement; decide
theorem chk16 : Statement .chk16 := by unfold Statement; decide
theorem chk32 : Statement .chk32 := by unfold Statement; decide
theorem rdbe (n : BitVec 4) : Statement (.rdbe n) := by unfold Statement; revert n; decide
theorem wrbe (n : BitVec 4) : Statement (.wrbe n) := by unfold Statement; revert n; decide
theorem ptm : Statement .ptm := by unfold Statement; decide
theorem paos : Statement .paos := by unfold Statement; decide
theorem puslp : Statement .puslp := by unfold Statement; decide
theorem tcmk (vcid : BitVec 6) (plen : BitVec 10) : Statement (.tcmk vcid plen) := by
  show (0x40#8 ++ (0#8 ++ plen ++ vcid)) &&& 0xFFFF0000#32 = 0x40000000#32
  apply BitVec.eq_of_getLsbD_eq
  intro i hi
  interval_cases i <;> simp only [BitVec.getLsbD_and, BitVec.getLsbD_append] <;> simp
theorem tcenc : Statement .tcenc := by unfold Statement; decide

end Sys2Proof.Laws.TableRow
end

