-- ==== Sys2Proof/Tests/Slice0.lean ====
section
/-! SUPPORT. Tests: words and vectors of the spec, and for each statement with hypotheses states that meet them. -/

namespace Sys2Proof.Tests

-- One theorem at a time: many kernel evaluations at once take more threads than the memory limit allows.
set_option Elab.async false

open Sys2Proof.Machine Sys2Proof.Claims

/-! ## Helpers -/

/-- These bytes. -/
def hx (l : List Nat) : List Byte := l.map (BitVec.ofNat 8)

/-- A buffer with these bytes from index `o` on. -/
def load (o : Nat) (l : List Byte) : Memory := l.zipIdx.map fun p => (o + p.2, p.1)

/-- Reset, then bytes at `o`, with `OFF = o` and `LEN = n`. -/
def region (o n : Nat) (l : List Nat) : State :=
  { State.reset with
    buf := load o (hx l)
    regs := { Registers.reset with off := BitVec.ofNat 32 o, len := BitVec.ofNat 32 n } }

/-- A region on a link with `DL_ERRDET = ed` and `DL_FRAMELEN = f`. -/
def link (ed f : Nat) (s : State) : State :=
  { s with regs := { s.regs with
    cfg := { s.regs.cfg with dlErrdet := BitVec.ofNat 2 ed }, dlFramelen := BitVec.ofNat 17 f } }

/-- The optional AOS fields: `AOS_FHEC`, `AOS_OCF` and `AOS_INSERT`. -/
def aosLink (fhec ocf : Bool) (insert : Nat) (s : State) : State :=
  { s with regs := { s.regs with
    cfg := { s.regs.cfg with aosFhec := fhec, aosOcf := ocf }, aosInsert := BitVec.ofNat 16 insert } }

/-- A state with a TC link: `TC_CRC`, `MAXLEN` and `OFF`. -/
def tcLink (crc : Bool) (maxlen o : Nat) : State :=
  { State.reset with regs := { Registers.reset with
    cfg := { Registers.reset.cfg with tcCrc := crc }
    tcCfg := ⟨0x1AB#10, BitVec.ofNat 11 maxlen⟩
    off := BitVec.ofNat 32 o } }

/-- The state after a command that goes on; the state itself where it stops. -/
def after (i : Instr) (s : State) : State :=
  match exec i s with
  | .next t => t
  | .fault _ => s
  | .refused _ => s

/-- `STATUS.ERR` and `STATUS.SUB` after a command. -/
def ends (i : Instr) (s : State) : BitVec 4 × BitVec 4 := ((after i s).regs.status.err, (after i s).regs.status.sub)

/-- The words the host reads at these offsets after a command. -/
def reads (i : Instr) (s : State) (offsets : List Nat) : List Word :=
  offsets.map fun o => (after i s).regRead (BitVec.ofNat 6 (o / 4))

/-- The next input is a write of this word to `CMD`. -/
def commanding (w : Word) (s : State) : State := { s with inputs := [.access (.regWrite 0#6 w)] }

/-! ## Well-formed terms -/

theorem test_wf_refuses_rdbe_0 : Instr.wf (.rdbe 0#4) = false := by decide
theorem test_wf_refuses_rdbe_9 : Instr.wf (.rdbe 9#4) = false := by decide
theorem test_wf_refuses_wrbe_0 : Instr.wf (.wrbe 0#4) = false := by decide
theorem test_wf_refuses_wrbe_15 : Instr.wf (.wrbe 15#4) = false := by decide
theorem test_wf_accepts_boundaries :
    Instr.wf (.rdbe 1#4) = true ∧ Instr.wf (.rdbe 8#4) = true ∧ Instr.wf (.wrbe 1#4) = true ∧
      Instr.wf (.wrbe 8#4) = true ∧ Instr.wf (.tcmk 63#6 1023#10) = true := by decide

/-! ## Words written out from 30_encoding.md R91 to R93 -/

theorem test_decode_nop : decode 0b00000000_000000000000000000000000#32 = .ok .nop := by decide
theorem test_decode_clrerr : decode 0b00000001_000000000000000000000000#32 = .ok .clrerr := by decide
theorem test_decode_srst : decode 0b00000010_000000000000000000000000#32 = .ok .srst := by decide
theorem test_decode_crc16 : decode 0b00010000_000000000000000000000000#32 = .ok .crc16 := by decide
theorem test_decode_crc32 : decode 0b00010001_000000000000000000000000#32 = .ok .crc32 := by decide
theorem test_decode_chk16 : decode 0b00010010_000000000000000000000000#32 = .ok .chk16 := by decide
theorem test_decode_chk32 : decode 0b00010011_000000000000000000000000#32 = .ok .chk32 := by decide
theorem test_decode_ptm : decode 0b00110000_000000000000000000000000#32 = .ok .ptm := by decide
theorem test_decode_paos : decode 0b00110001_000000000000000000000000#32 = .ok .paos := by decide
theorem test_decode_puslp : decode 0b00110010_000000000000000000000000#32 = .ok .puslp := by decide
theorem test_decode_tcenc : decode 0b01000001_000000000000000000000000#32 = .ok .tcenc := by decide
theorem test_decode_rdbe : decode 0b00100000_00000000000000000000_0101#32 = .ok (.rdbe 5#4) := by decide
theorem test_decode_wrbe : decode 0b00100001_00000000000000000000_0010#32 = .ok (.wrbe 2#4) := by decide
theorem test_decode_tcmk : decode 0b01000000_00000000_0000001010_000011#32 = .ok (.tcmk 3#6 10#10) := by decide
theorem test_decode_tcmk_1023 : decode 0x4000FFFF#32 = .ok (.tcmk 63#6 1023#10) := by decide

/-- 95_test_vectors.md I1 to I7. -/
theorem test_decode_rejects_by_name :
    decode 0x03000000#32 = .error .reservedOpcode ∧ decode 0x14000000#32 = .error .reservedOpcode ∧
    decode 0xFFFFFFFF#32 = .error .reservedOpcode ∧ decode 0x10000001#32 = .error .mustBeZero ∧
    decode 0x30800000#32 = .error .mustBeZero ∧ decode 0x20000018#32 = .error .mustBeZero ∧
    decode 0x40010000#32 = .error .mustBeZero ∧ decode 0x20000000#32 = .error .illegalWidth ∧
    decode 0x20000009#32 = .error .illegalWidth ∧ decode 0x2100000C#32 = .error .illegalWidth := by decide

theorem test_table_word : decodeTableWord 32 0x40000283 = some (.tcmk 3#6 10#10) := by decide

/-- The word in place is the one the very next step runs. -/
theorem test_withFetchWord_runs : step (State.reset.withFetchWord 32 0x41000000) = exec .tcenc State.reset := rfl

/-! ## Commands, on the vectors of 95_test_vectors.md -/

/-- Y2. -/
theorem test_nop_keeps_flags :
    reads .nop { State.reset with regs := { Registers.reset with
      status := ⟨3, 0, true, false⟩, errFlags := 0b0001100#7 } } [0x04, 0x08] = [0x100#32, 0x18#32] := by decide +kernel

/-- Y3. -/
theorem test_clrerr_keeps_count :
    reads .clrerr { State.reset with regs := { Registers.reset with
      status := ⟨1, 3, true, true⟩, errFlags := 0b0111111#7, cntCorrupt := 9#32 } } [0x04, 0x08, 0x80] =
      [0x300#32, 0#32, 9#32] := by decide +kernel

/-- Y4. -/
theorem test_srst_keeps_buffer :
    reads .srst (link 1 16 (region 0 4 [0xDE, 0xAD, 0xBE, 0xEF])) [0x04, 0x0C, 0x10, 0x1C, 0x20] = [0, 0, 0, 0, 0] ∧
    (after .srst (link 1 16 (region 0 4 [0xDE, 0xAD, 0xBE, 0xEF]))).bytes 0 4 = hx [0xDE, 0xAD, 0xBE, 0xEF] := by
  decide +kernel

/-- The nine bytes of 123456789. -/
def digits : List Nat := [0x31, 0x32, 0x33, 0x34, 0x35, 0x36, 0x37, 0x38, 0x39]

/-- V3. -/
theorem test_crc16_last_byte : reads .crc16 (region 2039 9 digits) [0x04, 0x64] = [0#32, 0x29B1#32] := by
  decide +kernel

/-- V7. -/
theorem test_crc16_no_wrap :
    ends .crc16 { State.reset with regs := { Registers.reset with off := 0xFFFFFFFF#32, len := 0xFFFFFFFF#32 } } =
      (3#4, 0#4) := by decide +kernel

/-- V10. -/
theorem test_crc32_digits : reads .crc32 (region 0 9 digits) [0x04, 0x64] = [0#32, 0x92393BE9#32] := by
  decide +kernel

/-- V14, V15. -/
theorem test_chk16_digits :
    reads .chk16 (region 0 11 (digits ++ [0x29, 0xB1])) [0x04, 0x64, 0x68, 0x80] = [0#32, 0x29B1#32, 0x29B1#32, 0#32] ∧
    reads .chk16 (region 0 11 (digits ++ [0x29, 0xB0])) [0x04, 0x64, 0x68, 0x80, 0x08] =
      [0x31#32, 0x29B1#32, 0x29B0#32, 1#32, 2#32] := by decide +kernel

/-- V22, V25. -/
theorem test_chk32_digits :
    reads .chk32 (region 0 13 (digits ++ [0x92, 0x39, 0x3B, 0xE9])) [0x04, 0x64, 0x68] =
      [0#32, 0x92393BE9#32, 0x92393BE9#32] ∧
    reads .chk32 (region 0 3 [0xFF, 0xFF, 0xFF]) [0x04, 0x64, 0x80] = [0x11#32, 0#32, 1#32] := by decide +kernel

/-- B5, B8. -/
theorem test_rdbe_splits :
    reads (.rdbe 5#4) (region 100 0 [0x81, 0x92, 0xA3, 0xB4, 0xC5]) [0x18, 0x14] = [0x81#32, 0x92A3B4C5#32] ∧
    reads (.rdbe 8#4) (region 2040 0 [0x81, 0x92, 0xA3, 0xB4, 0xC5, 0xD6, 0xE7, 0xF8]) [0x04, 0x18, 0x14] =
      [0#32, 0x8192A3B4#32, 0xC5D6E7F8#32] := by decide +kernel

/-- The state before B20 to B27, and B29 with `OFF = 2041`. -/
def wrbeState (o : Nat) : State :=
  { region 99 0 [0x55, 0x55, 0x55, 0x55, 0x55, 0x55, 0x55, 0x55, 0x55, 0x55] with
    regs := { Registers.reset with off := BitVec.ofNat 32 o, valHi := 0x01234567#32, valLo := 0x89ABCDEF#32 } }

/-- B24, B27. -/
theorem test_wrbe_big_endian :
    (after (.wrbe 5#4) (wrbeState 100)).bytes 99 10 =
      hx [0x55, 0x67, 0x89, 0xAB, 0xCD, 0xEF, 0x55, 0x55, 0x55, 0x55] ∧
    (after (.wrbe 8#4) (wrbeState 100)).bytes 99 10 =
      hx [0x55, 0x01, 0x23, 0x45, 0x67, 0x89, 0xAB, 0xCD, 0xEF, 0x55] := by decide +kernel

/-- B29: no byte written. -/
theorem test_wrbe_bounds_writes_nothing :
    ends (.wrbe 8#4) (wrbeState 2041) = (3#4, 0#4) ∧ (after (.wrbe 8#4) (wrbeState 2041)).buf = (wrbeState 2041).buf := by
  decide +kernel

def tm1 : List Nat := [0x0A, 0xB3, 0x21, 0x05, 0x00, 0x00, 0x11, 0x22, 0x33, 0x44, 0x01, 0x02, 0x03, 0x04, 0x11, 0xB2]
def tm3 : List Nat := [0x4A, 0xB3, 0x21, 0x05, 0x00, 0x00, 0x11, 0x22, 0x33, 0x44, 0x01, 0x02, 0x03, 0x04, 0x11, 0xB2]
def tm4 : List Nat := [0x0A, 0xB3, 0x21, 0x05, 0x00, 0x00, 0x11, 0x22, 0x33, 0x44, 0x01, 0x02, 0x03, 0x04, 0x11, 0xB3]
def tm7 : List Nat := [0x00, 0x14, 0x03, 0x04, 0x00, 0x03, 0x01, 0x02, 0x03, 0x04, 0xC4, 0x4A]
def tm8 : List Nat := [0x00, 0x14, 0x03, 0x04, 0x00, 0x04, 0x01, 0x02, 0x03, 0x04, 0xA3, 0x9E]
def tm10 : List Nat := [0x00, 0x14, 0x03, 0x04, 0x87, 0xFF, 0x05, 0xEE, 0xEE, 0xEE, 0xD0, 0xD1, 0xD6, 0x15]
def tm11 : List Nat := [0x00, 0x14, 0x03, 0x04, 0x87, 0xFF, 0x06, 0xEE, 0xEE, 0xEE, 0xD0, 0xD1, 0x18, 0xF5]
def tm13 : List Nat := [0x00, 0x14, 0x03, 0x04, 0x00, 0x00, 0x09, 0x08, 0x07, 0x92, 0x56, 0x36, 0x6F]
def tm14 : List Nat := [0x00, 0x14, 0x03, 0x04, 0x07, 0xFF]
def tm16 : List Nat := [0x00, 0x14, 0x03, 0x04, 0x00, 0x00, 0x09]
def tm17 : List Nat := [0x00, 0x15, 0x03, 0x04, 0x00, 0x00, 0x00, 0x00, 0x38, 0x04]
def tmSec : List Nat := [0x00, 0x14, 0x03, 0x04, 0x87, 0xFF]
def aos1 : List Nat := [0x56, 0x87, 0x01, 0x02, 0x03, 0x40, 0xEE, 0xEE, 0xAA, 0xBB, 0x10, 0x20, 0x30, 0xC0, 0xDE, 0x00, 0x01, 0x02, 0x91]
def aos2 : List Nat := [0x56, 0xBF, 0x00, 0x00, 0x07, 0x00, 0x00, 0x00, 0x00, 0x00, 0x6F, 0xAF]
def aos3 : List Nat := [0x56, 0xBE, 0x00, 0x00, 0x07, 0x00, 0x00, 0x00, 0x00, 0x00, 0x84, 0x8C]
def aos4 : List Nat := [0x16, 0x87, 0x00, 0x00, 0x07, 0x00, 0x00, 0x00, 0x00, 0x00, 0xC0, 0x48]
def aos5 : List Nat := [0x7F, 0xC0, 0xFF, 0xFF, 0xFF, 0xBF]
def aos9 : List Nat := [0x56, 0xBF, 0x00, 0x00, 0x07, 0x00, 0x00, 0x80, 0x00, 0x00, 0x6F, 0xAF]
def uslp1 : List Nat := [0xCA, 0xBC, 0xD0, 0xA6, 0x00, 0x13, 0x0A, 0x12, 0x34, 0x01, 0x02, 0x03, 0xCA, 0xFE, 0x00, 0x01, 0x90, 0x7D, 0x26, 0x0D]
def uslp5 : List Nat := [0xCA, 0xBC, 0xD0, 0xA7]
def uslp6 : List Nat := [0xBA, 0xBC, 0xD0, 0xA7]
def uslp7 : List Nat := [0xCA, 0xBC, 0xD0, 0xA6, 0x09, 0x09]
def uslp8 : List Nat := [0xCA, 0xBC, 0xD0]
def uslp10 : List Nat := [0xCF, 0xFF, 0xFF, 0xDE, 0x00, 0x10, 0xF7, 0x01, 0x02, 0x03, 0x04, 0x05, 0x06, 0x07, 0x77, 0x5E, 0xC7]
def uslp11 : List Nat := [0xC1, 0x23, 0x47, 0xF2, 0x00, 0x0B, 0x0F, 0x01, 0x02, 0x03, 0xB5, 0x79]
def uslp12 : List Nat := [0xC1, 0x23, 0x40, 0x20, 0x00, 0x0B, 0x0B, 0x01, 0x02, 0x03, 0x99, 0x1D]
def uslp14 : List Nat := [0xC1, 0x23, 0x40, 0x20, 0x00, 0x08, 0x00, 0x6B]
def uslp16 : List Nat := [0xCA, 0xBC, 0xD0, 0xA6, 0x00, 0x13, 0x0A, 0x12, 0x34, 0x11, 0x02, 0x03, 0xCA, 0xFE, 0x00, 0x01, 0x90, 0x7D, 0x26, 0x0D]
def uslpShort : List Nat := [0xC1, 0x23, 0x40, 0x20, 0x00, 0x07, 0x00, 0x6B]

/-- TM1. -/
theorem test_ptm_fields :
    reads .ptm (link 1 16 (region 0 16 tm1))
      [0x04, 0x30, 0x34, 0x38, 0x3C, 0x40, 0x44, 0x48, 0x4C, 0x50, 0x54, 0x58, 0x5C, 0x60, 0x64, 0x68] =
      [0x100, 0xAB, 1, 0, 0x142, 5, 0, 8, 0x21, 0x01020304, 6, 10, 6, 16, 0x11B2, 0x11B2] := by decide +kernel

/-- AOS1. -/
theorem test_paos_fields :
    reads .paos (aosLink true true 2 (link 1 19 (region 100 19 aos1)))
      [0x04, 0x30, 0x34, 0x38, 0x3C, 0x40, 0x44, 0x48, 0x4C, 0x50, 0x54, 0x58, 0x5C, 0x60, 0x64, 0x68] =
      [0x100, 0x5A, 7, 0, 0x222, 0x010203, 0, 24, 0, 0xC0DE0001, 10, 13, 0, 19, 0x0291, 0x0291] := by decide +kernel

/-- USLP1. -/
theorem test_puslp_fields :
    reads .puslp (link 2 0 (region 0 25 uslp1))
      [0x04, 0x30, 0x34, 0x38, 0x3C, 0x40, 0x44, 0x48, 0x4C, 0x50, 0x54, 0x58, 0x5C, 0x60, 0x64, 0x68] =
      [0x100, 0xABCD, 5, 3, 0x302, 0x1234, 0, 16, 0, 0xCAFE0001, 9, 12, 0, 20, 0x907D260D, 0x907D260D] := by
  decide +kernel

/-- The state of TC1 after its TCMK and the fill of the data zone. -/
def tc1Made : State :=
  let t := after (.tcmk 3#6 10#10) (tcLink true 256 0)
  { t with buf := load 0 (hx [0, 0, 0, 0, 0, 1, 2, 3, 4, 5, 6, 7, 8, 9, 10, 0, 0, 0xEE])
           regs := { t.regs with tcCtl := ⟨7#8, true, false⟩ } }

/-- TC1. -/
theorem test_tcmk_latches :
    reads (.tcmk 3#6 10#10) (tcLink true 256 0) [0x04, 0x6C, 0x70, 0x74, 0x78, 0x7C] =
      [0x200, 0, 17, 0x103, 5, 15] := by decide +kernel

/-- TC1. -/
theorem test_tcenc_bytes :
    (after .tcenc tc1Made).bytes 0 18 =
      hx [0x21, 0xAB, 0x0C, 0x10, 7, 1, 2, 3, 4, 5, 6, 7, 8, 9, 10, 0x0C, 0x03, 0xEE] := by decide +kernel

/-- X4, X5, X6. -/
theorem test_register_write_masks :
    (State.reset.regStore 7#6 0xFFFFFFFF#32).regRead 7#6 = 0x1F#32 ∧
    (State.reset.regStore 10#6 0xFFFFFFFF#32).regRead 10#6 = 0x07FF03FF#32 ∧
    (State.reset.regStore 11#6 0xFFFFFFFF#32).regRead 11#6 = 0x3FF#32 ∧
    State.reset.regStore 32#6 0xFFFFFFFF#32 = State.reset := by decide +kernel

/-! ## The clauses of the parse outcomes, in order, each with the vector that reaches it -/

/-- TM19, TM18, TM20, TM2, TM16, TM3, TM4, TM17, a secondary header with no byte left, TM11, TM8, and successes TM1,
TM7, TM10. -/
def tmStates : List State :=
  [link 3 16 (region 0 16 tm1), link 1 0 (region 0 16 tm1), link 1 16 (region 2040 16 []),
   link 1 16 (region 0 15 tm1), link 1 7 (region 0 7 tm16), link 1 16 (region 0 16 tm3),
   link 1 16 (region 0 16 tm4), link 1 10 (region 0 10 tm17), link 0 6 (region 0 6 tmSec),
   link 1 14 (region 0 14 tm11), link 1 12 (region 0 12 tm8), link 1 16 (region 2032 16 tm1),
   link 1 12 (region 0 12 tm7), link 1 14 (region 0 14 tm10)]

theorem test_ptm_outcomes :
    tmStates.map ptmOutcome = [(5, 0), (5, 0), (3, 0), (1, 1), (1, 1), (1, 2), (1, 3), (1, 1), (1, 1), (1, 1), (1, 4),
      (0, 0), (0, 0), (0, 0)] ∧ tmStates.map ptmOutcome = tmStates.map (ends .ptm) := by decide +kernel

/-- A reserved `DL_ERRDET`, AOS10, a region past the end, a length that is not the frame's, a frame too short for its
trailer, AOS4, AOS9, AOS2, AOS3, AOS1 and AOS5. -/
def aosStates : List State :=
  [link 3 19 (region 0 19 aos1), link 1 0 (region 0 19 aos1), link 1 19 (region 2030 19 []),
   link 1 19 (region 0 18 aos1), link 1 7 (region 0 7 aos5), link 1 12 (region 0 12 aos4),
   link 1 12 (region 0 12 aos9), aosLink false true 100 (link 1 12 (region 0 12 aos2)),
   aosLink false true 100 (link 1 12 (region 0 12 aos3)), aosLink true true 2 (link 1 19 (region 100 19 aos1)),
   link 0 6 (region 0 6 aos5)]

theorem test_paos_outcomes :
    aosStates.map paosOutcome = [(5, 0), (5, 0), (3, 0), (1, 1), (1, 1), (1, 2), (1, 3), (0, 0), (1, 1), (0, 0), (0, 0)] ∧
      aosStates.map paosOutcome = aosStates.map (ends .paos) := by decide +kernel

/-- USLP17, a region past the end, a length that is not the configured one, USLP8, USLP6, USLP5, USLP7, USLP3, USLP14,
a frame too short for its trailer, USLP16, USLP11, USLP12, USLP1 and USLP10. -/
def uslpStates : List State :=
  [link 3 0 (region 0 25 uslp1), link 2 0 (region 2040 20 []), link 2 20 (region 0 19 uslp1),
   link 0 0 (region 0 3 uslp8), link 2 0 (region 0 4 uslp6), link 2 0 (region 0 4 uslp5),
   link 0 0 (region 0 6 uslp7), link 2 25 (region 0 25 uslp1), link 1 0 (region 0 8 uslp14),
   link 1 0 (region 0 8 uslpShort), link 2 0 (region 0 25 uslp16), link 1 0 (region 0 12 uslp11),
   link 1 0 (region 0 12 uslp12), link 2 20 (region 0 20 uslp1), link 1 0 (region 0 17 uslp10)]

theorem test_puslp_outcomes :
    uslpStates.map puslpOutcome = [(5, 0), (3, 0), (1, 1), (1, 1), (1, 2), (7, 0), (1, 1), (1, 1), (1, 1), (1, 1), (1, 3),
      (0, 0), (1, 1), (0, 0), (0, 0)] ∧ uslpStates.map puslpOutcome = uslpStates.map (ends .puslp) := by decide +kernel

/-! ## Witnesses: states and operands that meet the hypotheses of a statement -/

theorem test_witness_DecodeInvertsEncode : (Instr.tcmk 63#6 1023#10).wf = true ∧ (Instr.rdbe 8#4).wf = true := by decide

theorem test_witness_EncodeInvertsDecode : decode 0x20000008#32 = .ok (.rdbe 8#4) := by decide

/-- One word for each of the three cases, and for each case a legal neighbour. -/
theorem test_witness_illegal_words :
    (commanding 0x03000000#32 State.reset).inputs = [.access (.regWrite 0#6 0x03000000#32)] ∧
    IllegalWord 0x03000000#32 ∧ IllegalWord 0x00000001#32 ∧ IllegalWord 0x02800000#32 ∧ IllegalWord 0x20000010#32 ∧
    IllegalWord 0x20000000#32 ∧ IllegalWord 0x21000009#32 ∧ IllegalWord 0x40010000#32 ∧
    ¬ IllegalWord 0x02000000#32 ∧ ¬ IllegalWord 0x20000001#32 ∧ ¬ IllegalWord 0x21000008#32 ∧
    ¬ IllegalWord 0x4000FFFF#32 := by
  refine ⟨rfl, ?_, ?_, ?_, ?_, ?_, ?_, ?_, ?_, ?_, ?_, ?_⟩ <;> (simp only [IllegalWord]; decide)

theorem test_witness_StepRunsTheDecodedCommand :
    (commanding 0x4000FFFF#32 State.reset).inputs = .access (.regWrite 0#6 0x4000FFFF#32) :: [] ∧
    decode 0x4000FFFF#32 = .ok (.tcmk 63#6 1023#10) := by decide

theorem test_witness_StepWithoutInput : State.reset.inputs = [] := by decide

/-- A register read, a buffer read, an index of `BUF_SIZE` and the offsets 0x84 and 0xFC. -/
theorem test_witness_HostReads :
    ({ State.reset with inputs := [.access (.regRead 63#6)] } : State).inputs = .access (.regRead 63#6) :: [] ∧
    ({ State.reset with inputs := [.access (.bufRead 2047#16)] } : State).inputs = .access (.bufRead 2047#16) :: [] ∧
    State.reset.params.bufSize ≤ (2048#16).toNat ∧ 0x84 ≤ 4 * (33#6).toNat ∧ 0x84 ≤ 4 * (63#6).toNat := by decide

/-- An `RW`, an `RO` and an unused offset. -/
theorem test_witness_RegisterWrite :
    (3#6 : BitVec 6) ≠ 0#6 ∧ fieldMask 3#6 ≠ 0#32 ∧ (1#6 : BitVec 6) ≠ 0#6 ∧ fieldMask 1#6 = 0#32 ∧
    fieldMask 63#6 = 0#32 := by decide +kernel

theorem test_witness_AccessesOtherThanCmdWrites :
    ∀ w : Word, HostAccess.bufWrite 0#16 0x5A#8 ≠ .regWrite 0#6 w ∧ HostAccess.regWrite 1#6 5#32 ≠ .regWrite 0#6 w ∧
      HostAccess.regRead 0#6 ≠ .regWrite 0#6 w := by
  intro w
  simp

/-- The edges of the two windows. -/
theorem test_address_map :
    hostAccessAt 0x000FC#17 .read32 = some (.regRead 63#6) ∧ hostAccessAt 0x00100#17 .read32 = none ∧
    hostAccessAt 0x00002#17 (.write32 1#32) = none ∧ hostAccessAt 0x1FFFF#17 .read8 = some (.bufRead 65535#16) ∧
    hostAccessAt 0x0FFFF#17 .read8 = none ∧ hostAccessAt 0x10000#17 (.write16 1#16) = none := by decide

/-- NOP, CLRERR and SRST with a must-be-zero bit. -/
theorem test_witness_system_words :
    (0x00000001#32).toNat / 2 ^ 24 = 0x00 ∧ (0x00000001#32).toNat % 2 ^ 24 ≠ 0 ∧
    (0x01000100#32).toNat / 2 ^ 24 = 0x01 ∧ (0x01000100#32).toNat % 2 ^ 24 ≠ 0 ∧
    (0x02800000#32).toNat / 2 ^ 24 = 0x02 ∧ (0x02800000#32).toNat % 2 ^ 24 ≠ 0 := by decide

/-- CRC16 and CRC32: a region that ends at the last byte (V5), and one byte more (V6). -/
theorem test_witness_crc_regions :
    (region 2048 0 []).regs.off.toNat + (region 2048 0 []).regs.len.toNat ≤ (region 2048 0 []).params.bufSize ∧
    (region 2049 0 []).params.bufSize < (region 2049 0 []).regs.off.toNat + (region 2049 0 []).regs.len.toNat := by
  decide

/-- CHK16: V20, V18, V17 and V16. -/
theorem test_witness_chk16 :
    (let s := region 2047 2 []
     s.params.bufSize < s.regs.off.toNat + s.regs.len.toNat) ∧
    (let s := region 0 1 [0xFF]
     s.regs.off.toNat + s.regs.len.toNat ≤ s.params.bufSize ∧ s.regs.len.toNat < 2) ∧
    (let s := region 0 2 [0xFF, 0xFE]
     s.regs.off.toNat + s.regs.len.toNat ≤ s.params.bufSize ∧ 2 ≤ s.regs.len.toNat ∧
      (0#16 ++ crc16 (s.bytes 0 0) : Word) ≠ BitVec.ofNat 32 (bigEndian (s.bytes 0 2))) ∧
    (let s := region 0 2 [0xFF, 0xFF]
     s.regs.off.toNat + s.regs.len.toNat ≤ s.params.bufSize ∧ 2 ≤ s.regs.len.toNat ∧
      (0#16 ++ crc16 (s.bytes 0 0) : Word) = BitVec.ofNat 32 (bigEndian (s.bytes 0 2))) := by decide +kernel

/-- CHK32: V27, V25, one wrong bit, and V24. -/
theorem test_witness_chk32 :
    (let s := region 2046 4 []
     s.params.bufSize < s.regs.off.toNat + s.regs.len.toNat) ∧
    (let s := region 0 3 [0xFF, 0xFF, 0xFF]
     s.regs.off.toNat + s.regs.len.toNat ≤ s.params.bufSize ∧ s.regs.len.toNat < 4) ∧
    (let s := region 0 4 [0xFF, 0xFF, 0xFF, 0xFE]
     s.regs.off.toNat + s.regs.len.toNat ≤ s.params.bufSize ∧ 4 ≤ s.regs.len.toNat ∧
      crc32 s.params (s.bytes 0 0) ≠ BitVec.ofNat 32 (bigEndian (s.bytes 0 4))) ∧
    (let s := region 0 4 [0xFF, 0xFF, 0xFF, 0xFF]
     s.regs.off.toNat + s.regs.len.toNat ≤ s.params.bufSize ∧ 4 ≤ s.regs.len.toNat ∧
      crc32 s.params (s.bytes 0 0) = BitVec.ofNat 32 (bigEndian (s.bytes 0 4))) := by decide +kernel

theorem test_witness_Crc32Residue : Config.Params.defaults.crc32XorOut = 0#32 := by decide

/-- RDBE and WRBE: widths 1 and 8 up to the last byte, one byte past it, and the widths 0, 9 and 15. -/
theorem test_witness_widths :
    (1 ≤ (1#4).toNat ∧ (1#4).toNat ≤ 8 ∧ (wrbeState 2047).regs.off.toNat + (1#4).toNat ≤ (wrbeState 2047).params.bufSize) ∧
    (1 ≤ (8#4).toNat ∧ (8#4).toNat ≤ 8 ∧ (wrbeState 2040).regs.off.toNat + (8#4).toNat ≤ (wrbeState 2040).params.bufSize) ∧
    (1 ≤ (8#4).toNat ∧ (8#4).toNat ≤ 8 ∧ (wrbeState 2041).params.bufSize < (wrbeState 2041).regs.off.toNat + (8#4).toNat) ∧
    ((0#4).toNat = 0 ∨ 9 ≤ (0#4).toNat) ∧ ((9#4).toNat = 0 ∨ 9 ≤ (9#4).toNat) ∧
    ((15#4).toNat = 0 ∨ 9 ≤ (15#4).toNat) := by decide

/-- Malformed words of RDBE, WRBE (a must-be-zero bit, `n` 0 and 9) and TCMK, and the step a malformed word takes. -/
theorem test_witness_malformed_words :
    ((0x20000018#32).toNat / 2 ^ 24 = 0x20 ∧ (0x20000018#32).toNat % 2 ^ 24 / 2 ^ 4 ≠ 0) ∧
    ((0x21000000#32).toNat / 2 ^ 24 = 0x21 ∧ (0x21000000#32).toNat % 2 ^ 4 = 0) ∧
    ((0x20000009#32).toNat / 2 ^ 24 = 0x20 ∧ 9 ≤ (0x20000009#32).toNat % 2 ^ 4) ∧
    ((0x40800283#32).toNat / 2 ^ 24 = 0x40 ∧ (0x40800283#32).toNat % 2 ^ 24 / 2 ^ 16 ≠ 0) ∧
    runCommand 0x40800283#32 tc1Made = .next (afterIllegalWord tc1Made) :=
  ⟨by decide, by decide, by decide, by decide, rfl⟩

/-- A value that fills the width exactly. -/
theorem test_witness_BigEndianRoundTrip :
    1 ≤ (8#4).toNat ∧ (8#4).toNat ≤ 8 ∧ (wrbeState 2040).regs.off.toNat + (8#4).toNat ≤ (wrbeState 2040).params.bufSize ∧
    (wrbeState 2040).regs.valHi.toNat * 2 ^ 32 + (wrbeState 2040).regs.valLo.toNat < 2 ^ (8 * (8#4).toNat) := by decide

/-- An error and a success of a parse command; the offsets at the ends of the result window. -/
theorem test_witness_ParseErrors :
    (after .ptm State.reset).regs.status.err ≠ 0#4 ∧
    (after .ptm (link 1 16 (region 0 16 tm1))).regs.status.err = 0#4 ∧
    (0x30 ≤ 4 * (12#6).toNat ∧ 4 * (12#6).toNat ≤ 0x68) ∧ (0x30 ≤ 4 * (26#6).toNat ∧ 4 * (26#6).toNat ≤ 0x68) := by
  decide +kernel

/-- TM7: the pointer at the last byte of the data zone. -/
theorem test_witness_Ptm_pointer :
    let s := link 1 12 (region 0 12 tm7)
    let h : TmHeader := ⟨0, 1, 2, false, 3, 4, false, false, 3⟩
    let data := hx [1, 2, 3, 4]
    let frame := sealed s.params .crc16 (tmBody h 0 [] data 0)
    errDetOf s.regs.cfg.dlErrdet = some .crc16 ∧ h.version = 0#2 ∧ tmSecondaryFits h.sechdr [] = true ∧
      h.fhp.toNat < data.length ∧ s.regs.dlFramelen.toNat = frame.length ∧ s.regs.len.toNat = frame.length ∧
      s.regs.off.toNat + frame.length ≤ s.params.bufSize ∧ s.bytes s.regs.off.toNat frame.length = frame := by
  decide +kernel

/-- TM10: no pointer, a secondary header, an empty data zone. -/
theorem test_witness_Ptm_sentinel :
    let s := link 1 14 (region 0 14 tm10)
    let h : TmHeader := ⟨0, 1, 2, false, 3, 4, true, false, 0x7FF⟩
    let sec := hx [5, 0xEE, 0xEE, 0xEE, 0xD0, 0xD1]
    let frame := sealed s.params .crc16 (tmBody h 0 sec [] 0)
    errDetOf s.regs.cfg.dlErrdet = some .crc16 ∧ h.version = 0#2 ∧ tmSecondaryFits h.sechdr sec = true ∧
      (h.fhp = 0x7FF#11 ∨ h.fhp = 0x7FE#11) ∧ s.regs.dlFramelen.toNat = frame.length ∧
      s.regs.len.toNat = frame.length ∧ s.regs.off.toNat + frame.length ≤ s.params.bufSize ∧
      s.bytes s.regs.off.toNat frame.length = frame := by
  decide +kernel

/-- TM13: the CRC-32 trailer, the pointer at the first byte. -/
theorem test_witness_Ptm_crc32 :
    let s := link 2 13 (region 0 13 tm13)
    let h : TmHeader := ⟨0, 1, 2, false, 3, 4, false, false, 0⟩
    let data := hx [9, 8, 7]
    let frame := sealed s.params .crc32 (tmBody h 0 [] data 0)
    errDetOf s.regs.cfg.dlErrdet = some .crc32 ∧ h.version = 0#2 ∧ tmSecondaryFits h.sechdr [] = true ∧
      h.fhp.toNat < data.length ∧ s.regs.dlFramelen.toNat = frame.length ∧ s.regs.len.toNat = frame.length ∧
      s.regs.off.toNat + frame.length ≤ s.params.bufSize ∧ s.bytes s.regs.off.toNat frame.length = frame := by
  decide +kernel

/-- AOS1. -/
theorem test_witness_Paos :
    let s := aosLink true true 2 (link 1 19 (region 100 19 aos1))
    let h : AosHeader := ⟨1, 0x5A, 7, 0x010203, false, true⟩
    let skipped := hx [0xEE, 0xEE, 0xAA, 0xBB]
    let frame := sealed s.params .crc16 (aosBody h 0 skipped (hx [0x10, 0x20, 0x30]) s.regs.cfg.aosOcf 0xC0DE0001#32)
    errDetOf s.regs.cfg.dlErrdet = some .crc16 ∧ h.version = 1#2 ∧ h.vcid ≠ 63#6 ∧
      skipped.length = 2 * s.regs.cfg.aosFhec.toNat + s.regs.aosInsert.toNat ∧
      s.regs.dlFramelen.toNat = frame.length ∧ s.regs.len.toNat = frame.length ∧
      s.regs.off.toNat + frame.length ≤ s.params.bufSize ∧ s.bytes s.regs.off.toNat frame.length = frame := by
  decide +kernel

/-- USLP1 (no fixed length, the frame is the start of the region) and USLP2 (a fixed length). -/
theorem test_witness_Puslp :
    let h : UslpHeader := ⟨12, 0xABCD, 5, 3, false, 19, true, 2⟩
    let count := hx [0x12, 0x34]
    let p := Config.Params.defaults
    let frame := sealed p .crc32 (uslpBody h 0 0 count (hx [1, 2, 3]) 0xCAFE0001#32)
    h.version = 12#4 ∧ h.truncated = false ∧ h.vcid ≠ 63#6 ∧ count.length = h.countLength.toNat ∧
      h.flenMinusOne.toNat + 1 = frame.length ∧
      (let s := link 2 0 (region 0 25 uslp1)
       errDetOf s.regs.cfg.dlErrdet = some .crc32 ∧ s.regs.dlFramelen.toNat = 0 ∧ frame.length ≤ s.regs.len.toNat ∧
        s.regs.off.toNat + s.regs.len.toNat ≤ s.params.bufSize ∧ s.bytes s.regs.off.toNat frame.length = frame) ∧
      (let s := link 2 20 (region 0 20 uslp1)
       errDetOf s.regs.cfg.dlErrdet = some .crc32 ∧ s.regs.dlFramelen.toNat = frame.length ∧
        s.regs.len.toNat = frame.length ∧ s.regs.off.toNat + s.regs.len.toNat ≤ s.params.bufSize ∧
        s.bytes s.regs.off.toNat frame.length = frame) := by
  decide +kernel

/-- AOS2. -/
theorem test_witness_PaosIdle :
    let s := aosLink false true 100 (link 1 12 (region 0 12 aos2))
    let h : AosHeader := ⟨1, 0x5A, 63, 7, false, false⟩
    let frame := sealed s.params .crc16 (aosHeaderBytes h 0 ++ hx [0, 0, 0, 0])
    errDetOf s.regs.cfg.dlErrdet = some .crc16 ∧ h.version = 1#2 ∧ h.vcid = 63#6 ∧
      s.regs.dlFramelen.toNat = frame.length ∧ s.regs.len.toNat = frame.length ∧
      s.regs.off.toNat + frame.length ≤ s.params.bufSize ∧ s.bytes s.regs.off.toNat frame.length = frame := by
  decide +kernel

/-- USLP11, with no fixed length and with the frame's own. -/
theorem test_witness_PuslpIdle :
    let h : UslpHeader := ⟨12, 0x1234, 63, 9, false, 11, true, 7⟩
    let frame := sealed Config.Params.defaults .crc16 (uslpHeaderBytes h 0 0 ++ hx [1, 2, 3])
    h.version = 12#4 ∧ h.truncated = false ∧ h.vcid = 63#6 ∧ h.flenMinusOne.toNat + 1 = frame.length ∧
      (let s := link 1 0 (region 0 12 uslp11)
       errDetOf s.regs.cfg.dlErrdet = some .crc16 ∧ s.regs.dlFramelen.toNat = 0 ∧ frame.length ≤ s.regs.len.toNat ∧
        s.regs.off.toNat + s.regs.len.toNat ≤ s.params.bufSize ∧ s.bytes s.regs.off.toNat frame.length = frame) ∧
      (let s := link 1 12 (region 0 12 uslp11)
       errDetOf s.regs.cfg.dlErrdet = some .crc16 ∧ s.regs.dlFramelen.toNat = frame.length ∧
        s.regs.len.toNat = frame.length ∧ s.regs.off.toNat + s.regs.len.toNat ≤ s.params.bufSize ∧
        s.bytes s.regs.off.toNat frame.length = frame) := by
  decide +kernel

/-- The same frame at two places (TM1 and TM21). -/
theorem test_witness_ParseOutcomeDependsOnTheRegionBytesOnly :
    let s := link 1 16 (region 0 16 tm1)
    let t := link 1 16 (region 2032 16 tm1)
    s.regs.len = t.regs.len ∧ s.regs.cfg = t.regs.cfg ∧ s.regs.dlFramelen = t.regs.dlFramelen ∧
      s.regs.aosInsert = t.regs.aosInsert ∧ s.params.crc32Poly = t.params.crc32Poly ∧
      s.params.crc32Init = t.params.crc32Init ∧ s.params.crc32XorOut = t.params.crc32XorOut ∧
      s.regs.off.toNat + s.regs.len.toNat ≤ s.params.bufSize ∧
      t.regs.off.toNat + t.regs.len.toNat ≤ t.params.bufSize ∧
      s.bytes s.regs.off.toNat s.regs.len.toNat = t.bytes t.regs.off.toNat t.regs.len.toNat := by
  decide +kernel

/-- TCMK: above `MAXLEN`, above 1024, past the end by one byte, and a frame of 1024 bytes that ends at the last byte. -/
theorem test_witness_tcmk :
    (tcLink true 16 0).regs.tcCfg.maxlen.toNat < (10#10).toNat + 5 + 2 * (tcLink true 16 0).regs.cfg.tcCrc.toNat ∧
    1024 < (1020#10).toNat + 5 + 2 * (tcLink false 2047 0).regs.cfg.tcCrc.toNat ∧
    (let s := tcLink true 1024 1025
     let flen := (1017#10).toNat + 5 + 2 * s.regs.cfg.tcCrc.toNat
     flen ≤ s.regs.tcCfg.maxlen.toNat ∧ flen ≤ 1024 ∧ s.params.bufSize < s.regs.off.toNat + flen) ∧
    (let s := tcLink true 1024 1024
     let flen := (1017#10).toNat + 5 + 2 * s.regs.cfg.tcCrc.toNat
     flen ≤ s.regs.tcCfg.maxlen.toNat ∧ flen ≤ 1024 ∧ s.regs.off.toNat + flen ≤ s.params.bufSize) := by decide

/-- A state that no run reaches: a valid descriptor that names a frame past the end of the buffer. -/
def tcBroken : State :=
  { tc1Made with regs := { tc1Made.regs with tcf := { tc1Made.regs.tcf with base := 2032#17 } } }

/-- TCENC: no frame, above `MAXLEN`, a frame that fits with and without a trailer, and the broken descriptor. -/
theorem test_witness_tcenc :
    State.reset.regs.status.tcvalid = false ∧
    (let s := { tc1Made with regs := { tc1Made.regs with tcCfg := ⟨0, 16⟩ } }
     s.regs.status.tcvalid = true ∧ s.regs.tcCfg.maxlen.toNat < s.regs.tcf.flen.toNat) ∧
    (let s := tc1Made
     s.regs.status.tcvalid = true ∧ s.regs.tcf.flen.toNat ≤ s.regs.tcCfg.maxlen.toNat ∧
      s.regs.tcf.base.toNat + s.regs.tcf.flen.toNat ≤ s.params.bufSize ∧
      5 + 2 * s.regs.tcf.crc.toNat ≤ s.regs.tcf.flen.toNat) ∧
    (let s := after (.tcmk 63#6 0#10) (tcLink false 5 2043)
     s.regs.status.tcvalid = true ∧ s.regs.tcf.flen.toNat ≤ s.regs.tcCfg.maxlen.toNat ∧
      s.regs.tcf.base.toNat + s.regs.tcf.flen.toNat ≤ s.params.bufSize ∧
      5 + 2 * s.regs.tcf.crc.toNat ≤ s.regs.tcf.flen.toNat) ∧
    (let s := tcBroken
     s.regs.status.tcvalid = true ∧ s.regs.tcf.flen.toNat ≤ s.regs.tcCfg.maxlen.toNat ∧
      s.params.bufSize < s.regs.tcf.base.toNat + s.regs.tcf.flen.toNat) := by decide +kernel

/-- A frame with a trailer, and the shortest one. -/
theorem test_witness_EncodedTcFramePassesChk16 :
    (let s := tc1Made
     s.regs.status.tcvalid = true ∧ s.regs.tcf.crc = true ∧ s.regs.tcf.flen.toNat ≤ s.regs.tcCfg.maxlen.toNat ∧
      7 ≤ s.regs.tcf.flen.toNat ∧ s.regs.tcf.base.toNat + s.regs.tcf.flen.toNat ≤ s.params.bufSize) ∧
    (let s := after (.tcmk 0#6 0#10) (tcLink true 7 0)
     s.regs.status.tcvalid = true ∧ s.regs.tcf.crc = true ∧ s.regs.tcf.flen.toNat ≤ s.regs.tcCfg.maxlen.toNat ∧
      7 ≤ s.regs.tcf.flen.toNat ∧ s.regs.tcf.base.toNat + s.regs.tcf.flen.toNat ≤ s.params.bufSize) := by decide +kernel

/-- Completions of every kind: a success, an error that counts, one that does not, and the two commands that clear. -/
theorem test_witness_completions :
    (∃ t, exec .nop State.reset = .next t ∧ t.regs.status.err = 0#4) ∧
    (∃ t, exec .chk16 State.reset = .next t ∧ t.regs.status.err = 1#4) ∧
    (∃ t, exec .tcenc State.reset = .next t ∧ t.regs.status.err = 6#4) ∧
    (∃ t, exec .clrerr State.reset = .next t) ∧ (∃ t, exec .srst State.reset = .next t) ∧
    (∃ t, exec (.rdbe 1#4) State.reset = .next t) ∧ (∃ t, exec (.wrbe 1#4) State.reset = .next t) ∧
    (∃ t, exec .puslp State.reset = .next t) ∧ (∃ t, exec (.tcmk 0#6 0#10) State.reset = .next t) :=
  ⟨⟨_, rfl, rfl⟩, ⟨_, rfl, by decide +kernel⟩, ⟨_, rfl, rfl⟩, ⟨_, rfl⟩, ⟨_, rfl⟩, ⟨_, rfl⟩, ⟨_, rfl⟩, ⟨_, rfl⟩, ⟨_, rfl⟩⟩

theorem test_witness_StepsKeepParameters : ∃ t, step (commanding 0#32 tc1Made) = .next t := ⟨_, rfl⟩

/-- A state that satisfies the invariant with a TC frame made and the next command pending. -/
theorem test_witness_InvariantKept :
    Inv (commanding 0x41000000#32 tc1Made) ∧ ∃ t, step (commanding 0x41000000#32 tc1Made) = .next t :=
  ⟨by decide +kernel, _, rfl⟩

/-- A parsed frame satisfies the invariant, with its pointer inside the data zone. -/
theorem test_witness_Inv_after_ptm : Inv (after .ptm (link 1 16 (region 0 16 tm1))) := by decide +kernel

/-- The extreme sizes of the buffer, and a run to its end. -/
theorem test_witness_EveryReachableState :
    Config.Params.wf Config.Params.defaults ∧ Config.Params.wf { Config.Params.defaults with bufSize := 16 } ∧
    Config.Params.wf { Config.Params.defaults with bufSize := 65536 } ∧
    ∃ t, Host.Core.run Sys2Proof.core 2
      ({ State.reset with params := { Config.Params.defaults with bufSize := 16 }
                          inputs := [.access (.regWrite 0#6 0x12000000#32), .hardReset] } : State) = .next t :=
  ⟨by decide, by decide, by decide, _, rfl⟩

theorem test_witness_HardReset :
    ({ tc1Made with inputs := [.hardReset] } : State).inputs = .hardReset :: [] ∧
    0 < tc1Made.params.bufSize ∧ 2047 < tc1Made.params.bufSize := by decide +kernel

end Sys2Proof.Tests
end

section
/-! PROOFS of the statements of 00_scope.md: the step of a machine that has no host access to finish. -/

namespace Sys2Proof.Machine

/-- The equation of `step` for the empty list of inputs. -/
theorem step_of_inputs_eq_nil {s : State} (h : s.inputs = []) : step s = .next s := by
  rw [step, h]

/-- Settles O6: no input is the first branch of `step` (00_scope.md R6). -/
theorem stepWithoutInputChangesNothing : Obligations.StepWithoutInputChangesNothing := by
  unfold Obligations.StepWithoutInputChangesNothing
  intro s h
  exact step_of_inputs_eq_nil h

end Sys2Proof.Machine
end

section
/-! SUPPORT for the statements of 10_state.md: what every completion reports in the status registers, what every command
leaves unchanged, and what the host's register accesses do. -/

namespace Sys2Proof.Machine

/-! ## Error codes (60_exceptions.md R220, R222, R224) -/

theorem Failure.code_ne_zero (e : Failure) : e.code ≠ 0#4 := by
  cases e <;> simp [Failure.code]

theorem Failure.code_toNat_lt (e : Failure) : e.code.toNat < 8 := by
  cases e <;> simp [Failure.code]

theorem Failure.sub_toNat_lt (e : Failure) : e.sub.toNat < 5 := by
  cases e with
  | corrupt c => cases c <;> simp [Failure.sub, SubCause.code]
  | _ => simp [Failure.sub]

theorem Failure.sub_ne_zero_iff (e : Failure) : e.sub ≠ 0#4 ↔ e.code = 1#4 := by
  cases e with
  | corrupt c => cases c <;> simp [Failure.sub, SubCause.code, Failure.code]
  | _ => simp [Failure.sub, Failure.code]

theorem Failure.count_eq (e : Failure) : e.count = if e.code = 1#4 then 1#32 else 0#32 := by
  cases e <;> simp [Failure.count, Failure.code]

theorem errFlagsWord_or (f f' : BitVec 7) : errFlagsWord (f ||| f') = errFlagsWord f ||| errFlagsWord f' := by
  ext i hi
  simp only [errFlagsWord, BitVec.getElem_or, BitVec.getElem_append]
  grind

/-- The sticky flag of error `E` stands at bit `E` of `ERRFLAGS` (10_state.md R26). -/
theorem errFlagsWord_sticky (e : Failure) : errFlagsWord e.sticky = 1#32 <<< e.code.toNat := by
  cases e with
  | corrupt c => cases c <;> rfl
  | _ => rfl

theorem errFlagsWord_sticky_getLsbD (e : Failure) : (errFlagsWord e.sticky).getLsbD e.code.toNat = true := by
  have hlt := e.code_toNat_lt
  rw [errFlagsWord_sticky, BitVec.getLsbD_shiftLeft]
  simp
  omega

/-! ## What a completion reports -/

/-- `STATUS`, `ERRFLAGS` and `CNT_CORRUPT` of `h` report a completion on top of `g` (60_exceptions.md R223, R224). -/
inductive Reports (g h : Registers) : Prop where
  | success (err : h.status.err = 0#4) (sub : h.status.sub = 0#4) (flags : h.errFlags = g.errFlags)
      (count : h.cntCorrupt = g.cntCorrupt)
  | failure (e : Failure) (err : h.status.err = e.code) (sub : h.status.sub = e.sub)
      (flags : h.errFlags = g.errFlags ||| e.sticky) (count : h.cntCorrupt = g.cntCorrupt + e.count)

/-- The registers on top of which a command reports: CLRERR and SRST clear first (44_system.md R207, R209). -/
def beforeReport (i : Instr) (g : Registers) : Registers :=
  match i with
  | .clrerr => { g with errFlags := 0#7 }
  | .srst => Registers.reset
  | _ => g

theorem beforeReport_eq_self {i : Instr} (g : Registers) (hc : i ≠ .clrerr) (hs : i ≠ .srst) :
    beforeReport i g = g := by
  cases i with
  | clrerr => exact absurd rfl hc
  | srst => exact absurd rfl hs
  | _ => rfl

theorem reports_done (s : State) : Reports s.regs s.done.regs := .success rfl rfl rfl rfl

theorem reports_raise (s : State) (e : Failure) : Reports s.regs (s.raise e).regs := .failure e rfl rfl rfl rfl

/-- Only the flags and the counter of the registers before a completion matter to what it reports. -/
theorem Reports.of_eq {g g' h : Registers} (r : Reports g h) (hf : g.errFlags = g'.errFlags)
    (hc : g.cntCorrupt = g'.cntCorrupt) : Reports g' h := by
  cases r with
  | success err sub flags count => exact .success err sub (flags.trans hf) (count.trans hc)
  | failure e err sub flags count => exact .failure e err sub (hf ▸ flags) (hc ▸ count)

theorem Completes.reports {i : Instr} {s t : State} (h : Completes s i t) (hc : i ≠ .clrerr) (hs : i ≠ .srst) :
    Reports s.regs t.regs := by
  cases h with
  | clrerr => exact absurd rfl hc
  | srst => exact absurd rfl hs
  | nop => exact reports_done s
  | raised _ e => exact reports_raise s e
  | crcMismatch | parseFailed | notMade => exact (reports_raise _ _).of_eq rfl rfl
  | crcDone | read | parsed => exact (reports_done _).of_eq rfl rfl
  | write | made | encoded => exact (reports_done _).of_eq (by simp) (by simp)

/-- Every command that goes on reports one completion. -/
theorem exec_reports {i : Instr} {s t : State} (h : exec i s = .next t) : Reports (beforeReport i s.regs) t.regs := by
  by_cases hc : i = .clrerr
  · subst hc
    exact next_inj h ▸ reports_done { s with regs := { s.regs with errFlags := 0#7 } }
  by_cases hs : i = .srst
  · subst hs
    exact next_inj h ▸ reports_done s.softReset
  · rw [beforeReport_eq_self _ hc hs]
    exact (exec_completes h).reports hc hs

/-- The codes a completion can leave in `STATUS` (60_exceptions.md R220, R222). -/
theorem Reports.codes {g h : Registers} (r : Reports g h) :
    h.status.err.toNat < 8 ∧ h.status.sub.toNat < 5 ∧ (h.status.sub ≠ 0#4 ↔ h.status.err = 1#4) := by
  cases r with
  | success err sub => simp [err, sub]
  | failure e err sub =>
    rw [err, sub]
    exact ⟨e.code_toNat_lt, e.sub_toNat_lt, e.sub_ne_zero_iff⟩

/-- 10_state.md R26: the flag of the reported error and no other is added. -/
theorem Reports.errFlagsWord_eq {g h : Registers} (r : Reports g h) :
    errFlagsWord h.errFlags =
      if h.status.err = 0#4 then errFlagsWord g.errFlags
      else errFlagsWord g.errFlags ||| (1#32 <<< h.status.err.toNat) := by
  cases r with
  | success err _ flags => rw [if_pos err, flags]
  | failure e err _ flags =>
    rw [err, flags, if_neg e.code_ne_zero, errFlagsWord_or, errFlagsWord_sticky]

/-- 10_state.md R27: the counter counts the E_CORRUPT completions. -/
theorem Reports.cntCorrupt_eq {g h : Registers} (r : Reports g h) :
    h.cntCorrupt = if h.status.err = 1#4 then g.cntCorrupt + 1#32 else g.cntCorrupt := by
  cases r with
  | success err _ _ count => rw [count, if_neg (by rw [err]; decide)]
  | failure e err _ _ count =>
    rw [count, err, e.count_eq]
    split
    · rfl
    · exact BitVec.add_zero _

/-- 10_state.md R48, invariants 5 and 6: the sticky flag of the reported error is set. -/
theorem Reports.statusInv {g h : Registers} (r : Reports g h) : StatusInv h := by
  obtain ⟨herr, hsub, hiff⟩ := r.codes
  refine ⟨fun hne => ?_, hiff.1, by omega, by omega⟩
  cases r with
  | success err => exact absurd err hne
  | failure e err _ flags =>
    rw [err, flags, errFlagsWord_or, BitVec.getLsbD_or, errFlagsWord_sticky_getLsbD, Bool.or_true]

/-! ## What a host's register write leaves unchanged (10_state.md R21, 20_memory.md R61) -/

@[simp] theorem Reg.write_status (r : Reg) (v : Word) (g : Registers) : (r.write v g).status = g.status := by
  cases r <;> rfl

@[simp] theorem Reg.write_errFlags (r : Reg) (v : Word) (g : Registers) : (r.write v g).errFlags = g.errFlags := by
  cases r <;> rfl

@[simp] theorem Reg.write_result (r : Reg) (v : Word) (g : Registers) : (r.write v g).result = g.result := by
  cases r <;> rfl

@[simp] theorem Reg.write_tcf (r : Reg) (v : Word) (g : Registers) : (r.write v g).tcf = g.tcf := by
  cases r <;> rfl

@[simp] theorem Reg.write_cntCorrupt (r : Reg) (v : Word) (g : Registers) :
    (r.write v g).cntCorrupt = g.cntCorrupt := by
  cases r <;> rfl

/-- A host's register write stores into at most one register and touches nothing else of the state. -/
theorem regStore_cases (s : State) (f : BitVec 6) (v : Word) :
    (∃ r, regAt f = some r ∧ s.regStore f v = { s with regs := r.write v s.regs }) ∨
    (regAt f = none ∧ s.regStore f v = s) := by
  unfold State.regStore
  cases h : regAt f with
  | some r => exact .inl ⟨r, rfl, rfl⟩
  | none => exact .inr ⟨rfl, rfl⟩

@[simp] theorem regStore_params (s : State) (f : BitVec 6) (v : Word) : (s.regStore f v).params = s.params := by
  rcases regStore_cases s f v with ⟨r, -, e⟩ | ⟨-, e⟩ <;> simp [e]

@[simp] theorem regStore_buf (s : State) (f : BitVec 6) (v : Word) : (s.regStore f v).buf = s.buf := by
  rcases regStore_cases s f v with ⟨r, -, e⟩ | ⟨-, e⟩ <;> simp [e]

@[simp] theorem regStore_epoch (s : State) (f : BitVec 6) (v : Word) : (s.regStore f v).epoch = s.epoch := by
  rcases regStore_cases s f v with ⟨r, -, e⟩ | ⟨-, e⟩ <;> simp [e]

@[simp] theorem regStore_inputs (s : State) (f : BitVec 6) (v : Word) : (s.regStore f v).inputs = s.inputs := by
  rcases regStore_cases s f v with ⟨r, -, e⟩ | ⟨-, e⟩ <;> simp [e]

@[simp] theorem regStore_replies (s : State) (f : BitVec 6) (v : Word) : (s.regStore f v).replies = s.replies := by
  rcases regStore_cases s f v with ⟨r, -, e⟩ | ⟨-, e⟩ <;> simp [e]

@[simp] theorem regStore_status (s : State) (f : BitVec 6) (v : Word) :
    (s.regStore f v).regs.status = s.regs.status := by
  rcases regStore_cases s f v with ⟨r, -, e⟩ | ⟨-, e⟩ <;> simp [e]

@[simp] theorem regStore_errFlags (s : State) (f : BitVec 6) (v : Word) :
    (s.regStore f v).regs.errFlags = s.regs.errFlags := by
  rcases regStore_cases s f v with ⟨r, -, e⟩ | ⟨-, e⟩ <;> simp [e]

@[simp] theorem regStore_result (s : State) (f : BitVec 6) (v : Word) :
    (s.regStore f v).regs.result = s.regs.result := by
  rcases regStore_cases s f v with ⟨r, -, e⟩ | ⟨-, e⟩ <;> simp [e]

@[simp] theorem regStore_tcf (s : State) (f : BitVec 6) (v : Word) : (s.regStore f v).regs.tcf = s.regs.tcf := by
  rcases regStore_cases s f v with ⟨r, -, e⟩ | ⟨-, e⟩ <;> simp [e]

@[simp] theorem regStore_cntCorrupt (s : State) (f : BitVec 6) (v : Word) :
    (s.regStore f v).regs.cntCorrupt = s.regs.cntCorrupt := by
  rcases regStore_cases s f v with ⟨r, -, e⟩ | ⟨-, e⟩ <;> simp [e]

/-! ## What every command leaves unchanged -/

theorem exec_params {i : Instr} {s t : State} (h : exec i s = .next t) : t.params = s.params := by
  cases exec_completes h <;> simp

theorem exec_inputs {i : Instr} {s t : State} (h : exec i s = .next t) : t.inputs = s.inputs := by
  cases exec_completes h <;> simp

theorem exec_replies {i : Instr} {s t : State} (h : exec i s = .next t) : t.replies = s.replies := by
  cases exec_completes h <;> simp

/-- 10_state.md R45: the parse results and `RVALID` belong to the parse commands and SRST. -/
theorem exec_keeps_results {i : Instr} {s t : State} (h : exec i s = .next t)
    (hi : i ∉ [.ptm, .paos, .puslp, .srst]) :
    t.regs.status.rvalid = s.regs.status.rvalid ∧ t.regs.result = s.regs.result := by
  cases exec_completes h with
  | srst => simp at hi
  | parseFailed _ _ hp | parsed _ _ hp => simp_all
  | _ => simp

/-- 10_state.md R45: the TC descriptor and `TCVALID` belong to TCMK and SRST. -/
theorem exec_keeps_descriptor {i : Instr} {s t : State} (h : exec i s = .next t)
    (hmk : ∀ vcid plen, i ≠ .tcmk vcid plen) (hs : i ≠ .srst) : t.regs.status.tcvalid = s.regs.status.tcvalid ∧ t.regs.tcf = s.regs.tcf := by
  cases exec_completes h with
  | srst => exact absurd rfl hs
  | notMade vcid plen => exact absurd rfl (hmk vcid plen)
  | made vcid plen => exact absurd rfl (hmk vcid plen)
  | _ => simp

end Sys2Proof.Machine
end

section
/-! PROOFS of the invariant statements of 10_state.md: R48 holds after reset, every step keeps it, so it holds in every
reachable state. -/

namespace Sys2Proof.Machine

/-! ## The TC descriptor (R48, invariants 3 and 4) -/

/-- The descriptor that TCMK latches lies inside the buffer (43_tcenc.md R191). -/
theorem execTcmk_descriptorInv {vcid : BitVec 6} {plen : BitVec 10} {s t : State} (hp : Config.Params.wf s.params)
    (h : execTcmk vcid plen s = .next t) : DescriptorInv s.params t.regs := by
  rcases execTcmk_cases vcid plen s with ⟨-, e⟩ | ⟨-, -, -, e⟩ | ⟨-, hmax, hin, e⟩
  · rw [← next_inj (e.symm.trans h)]
    simp [DescriptorInv]
  · rw [← next_inj (e.symm.trans h)]
    simp [DescriptorInv]
  · rw [← next_inj (e.symm.trans h)]
    obtain ⟨-, hsize⟩ := hp
    have hcrc := s.regs.cfg.tcCrc.toNat_le
    have hplen := plen.isLt
    simp only [tcmkLength, tcHdrLen] at hmax hin
    simp [DescriptorInv, tcmkLength, tcHdrLen]
    omega

theorem exec_descriptorInv {i : Instr} {s t : State} (hp : Config.Params.wf s.params)
    (hd : DescriptorInv s.params s.regs) (h : exec i s = .next t) : DescriptorInv s.params t.regs := by
  by_cases hs : i = .srst
  · subst hs
    rw [← next_inj h]
    simp [DescriptorInv, Registers.reset]
  by_cases hmk : ∃ vcid plen, i = .tcmk vcid plen
  · obtain ⟨vcid, plen, rfl⟩ := hmk
    exact execTcmk_descriptorInv hp h
  · have hmk' : ∀ vcid plen, i ≠ .tcmk vcid plen := fun v p e => hmk ⟨v, p, e⟩
    obtain ⟨hvalid, htcf⟩ := exec_keeps_descriptor h hmk' hs
    rwa [DescriptorInv, hvalid, htcf]

/-! ## The parse results (R48, invariants 1 and 2) -/

/-- What R48 invariant 2 says of the result registers of a successful parse. -/
def ResultFits (r : ParseResult) : Prop :=
  r.dstart ≤ r.dend ∧ r.dend ≤ r.flen ∧ r.flags.fmt ≠ 0#2 ∧
    (r.flags.fhpk = 1#2 → r.dstart ≤ r.fhp ∧ r.fhp < r.dend)

theorem ofNat17_le {a b : Nat} (hab : a ≤ b) (hb : b ≤ 65536) : BitVec.ofNat 17 a ≤ BitVec.ofNat 17 b := by
  rw [BitVec.le_def, BitVec.toNat_ofNat, BitVec.toNat_ofNat]
  omega

theorem ofNat17_lt {a b : Nat} (hab : a < b) (hb : b ≤ 65536) : BitVec.ofNat 17 a < BitVec.ofNat 17 b := by
  rw [BitVec.lt_def, BitVec.toNat_ofNat, BitVec.toNat_ofNat]
  omega

theorem idleResult_fits {fmt : BitVec 2} (hf : fmt ≠ 0#2) (scid : BitVec 16) (flen : Nat) (crcs : Word × Word) :
    ResultFits (idleResult fmt scid flen crcs).result :=
  ⟨by simp [idleResult, ParseResult.zero], by simp [idleResult, ParseResult.zero], hf,
    by simp [idleResult, ResultFlags.zero]⟩

/-- A first header pointer of kind 1 points into the data zone (42_parse.md R167). -/
theorem tmFhp_ok {fhp : BitVec 11} {dstart dend p : Nat} {kind : BitVec 2} {idle : Bool}
    (h : tmFhp fhp dstart dend = .ok (kind, p, idle)) (hk : kind = 1#2) : dstart ≤ p ∧ p < dend := by
  unfold tmFhp at h
  split at h
  · cases h; cases hk
  · split at h
    · cases h; cases hk
    · split at h
      · cases h
      · cases h; omega

/-- A parse that reports results failed no check. -/
theorem check_eq_ok {α : Type} {c : Prop} [Decidable c] {e : Failure} {x : Except Failure α} {p : α} :
    (if c then .error e else x) = .ok p ↔ ¬ c ∧ x = .ok p := by
  by_cases hc : c <;> simp [hc]

theorem tmDataZone_fits {s : State} {h : TmHeader} {n c : Nat} {crcs : Word × Word} {p : Parsed}
    (hn : n ≤ 65536) (hok : tmDataZone s h n c crcs = .ok p) : ResultFits p.result := by
  simp only [tmDataZone, check_eq_ok] at hok
  obtain ⟨hlen, hsec, hzone, hok⟩ := hok
  split at hok
  · cases hok
  next kind fhp idle hfhp =>
    cases hok
    refine ⟨ofNat17_le (by omega) (by omega), ofNat17_le (by omega) hn, by simp, fun hk => ?_⟩
    obtain ⟨hlo, hhi⟩ := tmFhp_ok hfhp hk
    exact ⟨ofNat17_le hlo (by omega), ofNat17_lt hhi (by omega)⟩

theorem aosDataZone_fits {s : State} {h : AosHeader} {n c : Nat} {crcs : Word × Word} {p : Parsed}
    (hn : n ≤ 65536) (hok : aosDataZone s h n c crcs = .ok p) : ResultFits p.result := by
  simp only [aosDataZone] at hok
  split at hok
  · cases hok
    exact idleResult_fits (by decide) _ _ _
  · obtain ⟨hlen, hok⟩ := check_eq_ok.1 hok
    cases hok
    exact ⟨ofNat17_le (by omega) (by omega), ofNat17_le (by omega) hn, by simp, by simp⟩

theorem uslpDataZone_fits {s : State} {h : UslpHeader} {flen c : Nat} {crcs : Word × Word} {p : Parsed}
    (hn : flen ≤ 65536) (hok : uslpDataZone s h flen c crcs = .ok p) : ResultFits p.result := by
  simp only [uslpDataZone] at hok
  split at hok
  · cases hok
    exact idleResult_fits (by decide) _ _ _
  · obtain ⟨hlen, hok⟩ := check_eq_ok.1 hok
    cases hok
    exact ⟨ofNat17_le (by omega) (by omega), ofNat17_le (by omega) hn, by simp, by simp⟩

/-- The length of a USLP frame never exceeds the region's (42_parse.md R180). -/
theorem uslpFrameLength_le {f n decl flen : Nat} (h : uslpFrameLength f n decl = .ok flen) : flen ≤ n := by
  unfold uslpFrameLength at h
  split at h
  · obtain ⟨-, h⟩ := check_eq_ok.1 h
    cases h
    exact le_rfl
  · obtain ⟨hle, h⟩ := check_eq_ok.1 h
    cases h
    omega

/-- A successful PTM came through its checks to the data zone (42_parse.md R166). -/
theorem tmParse_ok {s : State} {p : Parsed} (h : tmParse s = .ok p) :
    s.base + s.length ≤ s.params.bufSize ∧
      ∃ c crcs, tmDataZone s (tmHeader s.frameByte) s.length c crcs = .ok p := by
  unfold tmParse at h
  split at h
  · cases h
  simp only [check_eq_ok] at h
  obtain ⟨-, hin, -, -, -, h⟩ := h
  split at h
  · cases h
  · exact ⟨by omega, _, _, h⟩

/-- A successful PAOS came through its checks to the data zone (42_parse.md R172). -/
theorem aosParse_ok {s : State} {p : Parsed} (h : aosParse s = .ok p) :
    s.base + s.length ≤ s.params.bufSize ∧
      ∃ c crcs, aosDataZone s (aosHeader s.frameByte) s.length c crcs = .ok p := by
  unfold aosParse at h
  split at h
  · cases h
  simp only [check_eq_ok] at h
  obtain ⟨-, hin, -, -, -, h⟩ := h
  split at h
  · cases h
  · exact ⟨by omega, _, _, h⟩

/-- A successful PUSLP came through its checks to the data zone (42_parse.md R182). -/
theorem uslpParse_ok {s : State} {p : Parsed} (h : uslpParse s = .ok p) :
    s.base + s.length ≤ s.params.bufSize ∧
      ∃ flen c crcs, flen ≤ s.length ∧ uslpDataZone s (uslpHeader s.frameByte) flen c crcs = .ok p := by
  unfold uslpParse at h
  split at h
  · cases h
  simp only [check_eq_ok] at h
  obtain ⟨hin, -, -, -, -, -, h⟩ := h
  split at h
  · cases h
  next flen hflen =>
    obtain ⟨-, h⟩ := check_eq_ok.1 h
    split at h
    · cases h
    · exact ⟨by omega, flen, _, _, uslpFrameLength_le hflen, h⟩

theorem finishParse_resultInv {s : State} {r : Except Failure Parsed} (h : ∀ p, r = .ok p → ResultFits p.result) :
    ResultInv (s.finishParse r).regs := by
  rcases finishParse_cases s r with ⟨e, -, he⟩ | ⟨p, hr, he⟩
  · rw [he]
    simp [ResultInv]
  · rw [he]
    exact ⟨by simp, fun _ => h p hr⟩

theorem exec_resultInv {i : Instr} {s t : State} (hp : Config.Params.wf s.params) (hr : ResultInv s.regs)
    (h : exec i s = .next t) : ResultInv t.regs := by
  obtain ⟨-, hsize⟩ := hp
  by_cases hi : i ∈ [.ptm, .paos, .puslp, .srst]
  · simp only [List.mem_cons, List.not_mem_nil, or_false] at hi
    rcases hi with rfl | rfl | rfl | rfl <;> rw [← next_inj h]
    · refine finishParse_resultInv fun p hok => ?_
      obtain ⟨hin, c, crcs, hzone⟩ := tmParse_ok hok
      exact tmDataZone_fits (by omega) hzone
    · refine finishParse_resultInv fun p hok => ?_
      obtain ⟨hin, c, crcs, hzone⟩ := aosParse_ok hok
      exact aosDataZone_fits (by omega) hzone
    · refine finishParse_resultInv fun p hok => ?_
      obtain ⟨hin, flen, c, crcs, hle, hzone⟩ := uslpParse_ok hok
      exact uslpDataZone_fits (by omega) hzone
    · simp [ResultInv, Registers.reset]
  · obtain ⟨hvalid, hresult⟩ := exec_keeps_results h hi
    rwa [ResultInv, hvalid, hresult]

/-! ## The buffer's canonical form -/

theorem exec_bufWf {i : Instr} {s t : State} (hb : Memory.wf s.params.bufSize s.buf) (h : exec i s = .next t) :
    Memory.wf s.params.bufSize t.buf := by
  cases exec_completes h with
  | write n => exact memWrite_wf hb _ _ _
  | made vcid plen d => exact zeroFill_wf hb _ _
  | encoded => simpa using tcTrailer_wf (s := tcHeader s) (by simpa using tcHeader_wf hb)
  | _ => exact hb

/-! ## Every input -/

theorem exec_inv {i : Instr} {s t : State} (hs : Inv s) (h : exec i s = .next t) : Inv t := by
  obtain ⟨hp, hb, hr, hd, -⟩ := hs
  have hparams := exec_params h
  rw [Inv, hparams]
  exact ⟨hp, exec_bufWf hb h, exec_resultInv hp hr h, exec_descriptorInv hp hd h, (exec_reports h).statusInv⟩

theorem raise_inv {s : State} (hs : Inv s) (e : Failure) : Inv (s.raise e) := by
  obtain ⟨hp, hb, hr, hd, -⟩ := hs
  exact ⟨hp, hb, hr, hd, (reports_raise s e).statusInv⟩

theorem runCommand_inv {w : Word} {s t : State} (hs : Inv s) (h : runCommand w s = .next t) : Inv t := by
  rcases runCommand_cases w s with ⟨i, -, e⟩ | ⟨r, -, e⟩
  · exact exec_inv hs (e.symm.trans h)
  · exact next_inj (e.symm.trans h) ▸ raise_inv hs .illCmd

theorem regStore_inv {s : State} (hs : Inv s) (f : BitVec 6) (v : Word) : Inv (s.regStore f v) := by
  simpa [Inv, ResultInv, DescriptorInv, StatusInv] using hs

theorem setByte_inv {s : State} (hs : Inv s) (a : Nat) (v : Byte) : Inv (s.setByte a v) := by
  obtain ⟨hp, hb, hregs⟩ := hs
  rw [Inv, setByte_params, setByte_regs]
  exact ⟨hp, setByte_wf hb a v, hregs⟩

theorem registers_reset_inv (p : Config.Params) :
    ResultInv Registers.reset ∧ DescriptorInv p Registers.reset ∧ StatusInv Registers.reset := by
  simp [ResultInv, DescriptorInv, StatusInv, Registers.reset]

theorem hardReset_inv {s : State} (hs : Inv s) : Inv s.hardReset := by
  obtain ⟨hp, -⟩ := hs
  exact ⟨hp, hardReset_wf s, registers_reset_inv s.params⟩

/-- Settles O49: no byte is written, and every register is 0. -/
theorem invariantHoldsAtReset : Obligations.InvariantHoldsAtReset :=
  ⟨by decide, reset_buf_wf, registers_reset_inv _⟩

/-- Settles O50, by the cases of a step; a command is `exec_inv`. -/
theorem invariantKeptByEveryStep : Obligations.InvariantKeptByEveryStep := by
  unfold Obligations.InvariantKeptByEveryStep
  intro s t hs h
  rcases step_cases s with ⟨-, e⟩ | ⟨w, rest, -, e⟩ | ⟨f, v, rest, -, -, e⟩ | ⟨j, v, rest, -, e⟩ |
    ⟨a, r, rest, -, e⟩ | ⟨rest, -, e⟩
  · exact next_inj (e.symm.trans h) ▸ hs
  · exact runCommand_inv (s := { s with inputs := rest }) hs (e.symm.trans h)
  · exact next_inj (e.symm.trans h) ▸ regStore_inv (s := { s with inputs := rest }) hs f v
  · exact next_inj (e.symm.trans h) ▸ setByte_inv (s := { s with inputs := rest }) hs j.toNat v
  · exact next_inj (e.symm.trans h) ▸ hs
  · exact next_inj (e.symm.trans h) ▸ hardReset_inv (s := { s with inputs := rest }) hs

/-! ## Every run -/

/-- A command word keeps the parameters and both lists (10_state.md R44, 20_memory.md R70). -/
theorem runCommand_keeps {w : Word} {s t : State} (h : runCommand w s = .next t) :
    t.params = s.params ∧ t.inputs = s.inputs ∧ t.replies = s.replies := by
  rcases runCommand_cases w s with ⟨i, -, e⟩ | ⟨r, -, e⟩
  · have hi := e.symm.trans h
    exact ⟨exec_params hi, exec_inputs hi, exec_replies hi⟩
  · rw [← next_inj (e.symm.trans h)]
    exact ⟨rfl, rfl, rfl⟩

/-- Settles O48, by the cases of a step: only a read adds to the replies. -/
theorem stepsKeepParametersAndTakeInputsInOrder : Obligations.StepsKeepParametersAndTakeInputsInOrder := by
  unfold Obligations.StepsKeepParametersAndTakeInputsInOrder
  intro s t h
  rcases step_cases s with ⟨hin, e⟩ | ⟨w, rest, hin, e⟩ | ⟨f, v, rest, -, hin, e⟩ | ⟨j, v, rest, hin, e⟩ |
    ⟨a, r, rest, hin, e⟩ | ⟨rest, hin, e⟩
  · simp [← next_inj (e.symm.trans h), hin]
  · obtain ⟨hp, hi, hr⟩ := runCommand_keeps (e.symm.trans h)
    simp [hp, hi, hr, hin]
  · simp [← next_inj (e.symm.trans h), hin]
  · simp [← next_inj (e.symm.trans h), hin]
  · simp [← next_inj (e.symm.trans h), hin]
  · simp [← next_inj (e.symm.trans h), hin]

/-- What every step of a machine keeps holds at the end of every run. -/
theorem run_induction {M : Host.Core} {P : M.State → Prop} (hstep : ∀ s t, P s → M.step s = .next t → P t)
    {k : Nat} {s t : M.State} (hs : P s) (h : M.run k s = .next t) : P t := by
  induction k generalizing s with
  | zero => exact Host.Outcome.next.inj h ▸ hs
  | succ k ih =>
    rw [Host.Core.run] at h
    split at h
    next u hu => exact ih (hstep s u hs hu) h
    · cases h
    · cases h

/-- Settles O52, by induction on the steps of the run: the invariant, with the parameters held fixed. -/
theorem everyReachableStateSatisfiesTheSixInvariants : Obligations.EveryReachableStateSatisfiesTheSixInvariants := by
  unfold Obligations.EveryReachableStateSatisfiesTheSixInvariants
  intro p inputs k t hp h
  have hrun : Inv t ∧ t.params = p := by
    refine run_induction (M := Sys2Proof.core) (P := fun u : State => Inv u ∧ u.params = p)
      (fun u v ⟨hu, hup⟩ huv => ?_) ⟨?_, rfl⟩ h
    · exact ⟨invariantKeptByEveryStep u v hu huv, (stepsKeepParametersAndTakeInputsInOrder u v huv).1.trans hup⟩
    · exact ⟨hp, by simp [Memory.wf, State.reset], registers_reset_inv p⟩
  obtain ⟨⟨-, -, hr, hd, hflag, hsub, -⟩, rfl⟩ := hrun
  exact ⟨hr, hd, hflag, hsub⟩

end Sys2Proof.Machine
end

section
/-! PROOFS of the register statements of 10_state.md: where the fields stand, what a host's write stores, and the
reset values. -/

namespace Sys2Proof.Machine

open Sys2Proof.Laws Sys2Proof.Claims

/-! ## Reading (R21, R22) -/

theorem regRead_of_regAt {f : BitVec 6} {r : Reg} (h : regAt f = some r) (s : State) :
    s.regRead f = r.read s.regs := by
  rw [State.regRead, h]

theorem regRead_of_regAt_none {f : BitVec 6} (h : regAt f = none) (s : State) : s.regRead f = 0#32 := by
  rw [State.regRead, h]

/-- The offsets 0x84 to 0xFC hold no register. -/
theorem regAt_eq_none : ∀ f : BitVec 6, 33 ≤ f.toNat → regAt f = none := by decide

/-- A field that fills the low end of a word is the word's value. -/
theorem toNat_zero_append {n : Nat} (m : Nat) (x : BitVec n) : (0#m ++ x).toNat = x.toNat := by
  rw [toNat_append_eq]
  simp

theorem Status.word_toNat (st : Status) :
    st.word.toNat = st.err.toNat + 2 ^ 4 * st.sub.toNat + 2 ^ 8 * st.rvalid.toNat + 2 ^ 9 * st.tcvalid.toNat := by
  refine (toNat_append_eq (0#22 ++ BitVec.ofBool st.tcvalid ++ BitVec.ofBool st.rvalid ++ st.sub) st.err).trans ?_
  simp only [toNat_append_eq, toNat_ofBool_eq, BitVec.toNat_zero]
  omega

theorem errFlagsWord_toNat (f : BitVec 7) : (errFlagsWord f).toNat = 2 * f.toNat := by
  refine (toNat_append_eq (0#24 ++ f) 0#1).trans ?_
  simp only [toNat_append_eq, BitVec.toNat_zero]
  omega

theorem ResultFlags.word_toNat (fl : ResultFlags) :
    fl.word.toNat = fl.idle.toNat + 2 * fl.ocfp.toNat + 2 ^ 2 * fl.sechdr.toNat + 2 ^ 3 * fl.sync.toNat
      + 2 ^ 4 * fl.replay.toNat + 2 ^ 5 * fl.vcfcu.toNat + 2 ^ 6 * fl.fhpk.toNat + 2 ^ 8 * fl.fmt.toNat := by
  refine (toNat_append_eq (0#22 ++ fl.fmt ++ fl.fhpk ++ BitVec.ofBool fl.vcfcu ++ BitVec.ofBool fl.replay
    ++ BitVec.ofBool fl.sync ++ BitVec.ofBool fl.sechdr ++ BitVec.ofBool fl.ocfp) (BitVec.ofBool fl.idle)).trans ?_
  simp only [toNat_append_eq, toNat_ofBool_eq, BitVec.toNat_zero]
  omega

theorem Reg.read_cfg_toNat (g : Registers) :
    (Reg.cfg.read g).toNat = g.cfg.dlErrdet.toNat + 2 ^ 2 * g.cfg.tcCrc.toNat + 2 ^ 3 * g.cfg.aosFhec.toNat
      + 2 ^ 4 * g.cfg.aosOcf.toNat := by
  refine (toNat_append_eq (0#27 ++ BitVec.ofBool g.cfg.aosOcf ++ BitVec.ofBool g.cfg.aosFhec
    ++ BitVec.ofBool g.cfg.tcCrc) g.cfg.dlErrdet).trans ?_
  simp only [toNat_append_eq, toNat_ofBool_eq, BitVec.toNat_zero]
  omega

theorem Reg.read_tcCfg_toNat (g : Registers) :
    (Reg.tcCfg.read g).toNat = g.tcCfg.scid.toNat + 2 ^ 16 * g.tcCfg.maxlen.toNat := by
  refine (toNat_append_eq (0#5 ++ g.tcCfg.maxlen ++ 0#6) g.tcCfg.scid).trans ?_
  simp only [toNat_append_eq, BitVec.toNat_zero]
  omega

theorem Reg.read_tcCtl_toNat (g : Registers) :
    (Reg.tcCtl.read g).toNat = g.tcCtl.seq.toNat + 2 ^ 8 * g.tcCtl.bypass.toNat + 2 ^ 9 * g.tcCtl.cc.toNat := by
  refine (toNat_append_eq (0#22 ++ BitVec.ofBool g.tcCtl.cc ++ BitVec.ofBool g.tcCtl.bypass) g.tcCtl.seq).trans ?_
  simp only [toNat_append_eq, toNat_ofBool_eq, BitVec.toNat_zero]
  omega

theorem Reg.read_tcfInfo_toNat (g : Registers) :
    (Reg.tcfInfo.read g).toNat = g.tcf.vcid.toNat + 2 ^ 8 * g.tcf.crc.toNat := by
  refine (toNat_append_eq (0#23 ++ BitVec.ofBool g.tcf.crc ++ 0#2) g.tcf.vcid).trans ?_
  simp only [toNat_append_eq, toNat_ofBool_eq, BitVec.toNat_zero]
  omega

/-- Settles O8: a register of one field is that field, and a packed one is the sum of its fields in their places. -/
theorem registersReadTheirFieldsInPlace : Obligations.RegistersReadTheirFieldsInPlace := by
  unfold Obligations.RegistersReadTheirFieldsInPlace
  intro s g r fl word
  have status : word 1 = _ := g.status.word_toNat
  have errFlags : word 2 = _ := errFlagsWord_toNat g.errFlags
  have cfg : word 7 = _ := Reg.read_cfg_toNat g
  have tcCfg : word 10 = _ := Reg.read_tcCfg_toNat g
  have tcCtl : word 11 = _ := Reg.read_tcCtl_toNat g
  have flags : word 15 = _ := fl.word_toNat
  have tcfInfo : word 29 = _ := Reg.read_tcfInfo_toNat g
  have pad : ∀ (m : Nat) {n : Nat} (x : BitVec n), (0#m ++ x).toNat = x.toNat := fun m {_} x => toNat_zero_append m x
  exact ⟨⟨status, errFlags⟩, ⟨rfl, rfl, rfl, rfl⟩, ⟨cfg, pad 15 _, pad 16 _, tcCfg, tcCtl⟩,
    ⟨pad 16 _, pad 26 _, pad 28 _, flags⟩,
    ⟨rfl, pad 8 _, pad 26 _, pad 24 _, rfl, pad 15 _, pad 15 _, pad 15 _, pad 15 _, rfl, rfl⟩,
    ⟨pad 15 _, pad 21 _, tcfInfo, pad 21 _, pad 21 _, rfl⟩, rfl,
    fun f hf => by simp only [word, regRead_of_regAt_none (regAt_eq_none f hf)]; rfl⟩

/-- Every offset reads 0 from reset registers (10_state.md R46). -/
theorem regRead_reset (s : State) (h : s.regs = Registers.reset) (f : BitVec 6) : s.regRead f = 0#32 := by
  cases hf : regAt f with
  | none => exact regRead_of_regAt_none hf s
  | some r =>
    rw [regRead_of_regAt hf, h]
    cases r <;> rfl

/-- The step that takes a hardware reset (70_reset_and_hazards.md R250). -/
theorem step_of_hardReset {s : State} {rest : List Input} (h : s.inputs = .hardReset :: rest) :
    step s = .next ({ s with inputs := rest } : State).hardReset := by
  rw [step, h]
  rfl

/-- Settles O53: `regRead_reset` at both states. -/
theorem everyRegisterReadsZeroAfterHardwareReset : Obligations.EveryRegisterReadsZeroAfterHardwareReset := by
  unfold Obligations.EveryRegisterReadsZeroAfterHardwareReset
  refine ⟨regRead_reset _ rfl, fun s rest h => ?_⟩
  exact ⟨_, step_of_hardReset h, rfl, regRead_reset _ rfl⟩

/-- Settles O54: the buffer lists no byte, so each reads as the free byte of the next reset number. -/
theorem hardwareResetFreesEveryBufferByte : Obligations.HardwareResetFreesEveryBufferByte := by
  unfold Obligations.HardwareResetFreesEveryBufferByte
  intro s rest h
  refine ⟨_, step_of_hardReset h, rfl, rfl, rfl, fun a ha => ?_⟩
  simp [State.byteAt, Memory.get?, ha]

/-- Settles O5: the write is taken off the inputs and the word decodes to the command. -/
theorem stepRunsTheDecodedCommand : Obligations.StepRunsTheDecodedCommand := by
  unfold Obligations.StepRunsTheDecodedCommand
  intro s w i rest hin hw
  have hrun : step s = runCommand w { s with inputs := rest } := by
    rw [step, hin]
    rfl
  rw [hrun, runCommand, hw]

/-! ## Writing (R21, R22) -/

/-- The field bits of a register that the host may write, none for the others. -/
def Reg.mask : Reg → Word
  | .off | .len | .valLo | .valHi => 0xFFFFFFFF#32
  | .cfg => 0x1F#32
  | .dlFramelen => 0x1FFFF#32
  | .aosInsert => 0xFFFF#32
  | .tcCfg => 0x07FF03FF#32
  | .tcCtl => 0x3FF#32
  | _ => 0#32

theorem fieldMask_eq : ∀ f : BitVec 6, fieldMask f = ((regAt f).map Reg.mask).getD 0#32 := by decide

/-- A write to a register without field bits for the host stores nothing. -/
theorem Reg.write_of_mask_eq_zero {r : Reg} (h : r.mask = 0#32) (v : Word) (g : Registers) : r.write v g = g := by
  cases r with
  | off | len | valLo | valHi | cfg | dlFramelen | aosInsert | tcCfg | tcCtl => exact absurd h (by decide)
  | _ => rfl

theorem toNat_getLsbD {w : Nat} (x : BitVec w) (i : Nat) : (x.getLsbD i).toNat = x.toNat / 2 ^ i % 2 := by
  rw [getLsbD_eq_decide]
  rcases Nat.mod_two_eq_zero_or_one (x.toNat / 2 ^ i) with h | h <;> simp [h]

/-- Masking with `n` low ones keeps the low `n` bits. -/
theorem toNat_and_low_ones (v m : Word) (n : Nat) (hm : m.toNat = 2 ^ n - 1) : (v &&& m).toNat = v.toNat % 2 ^ n := by
  rw [BitVec.toNat_and, hm, Nat.and_two_pow_sub_one_eq_mod]

/-- The mask of `TC_CFG` keeps the low 10 bits of the lower half of the word and the low 11 of the upper half. -/
theorem toNat_and_tcCfg_mask (v : Word) :
    (v &&& 0x07FF03FF#32).toNat = v.toNat % 2 ^ 10 + 2 ^ 16 * (v.toNat / 2 ^ 16 % 2 ^ 11) := by
  have hi : (v &&& 0x07FF03FF#32).toNat / 2 ^ 16 = v.toNat / 2 ^ 16 % 2 ^ 11 := by
    rw [BitVec.toNat_and, Nat.and_div_two_pow, ← Nat.and_two_pow_sub_one_eq_mod _ 11]
    rfl
  have lo : (v &&& 0x07FF03FF#32).toNat % 2 ^ 16 = v.toNat % 2 ^ 16 % 2 ^ 10 := by
    rw [BitVec.toNat_and, Nat.and_mod_two_pow, ← Nat.and_two_pow_sub_one_eq_mod _ 10]
    rfl
  omega

/-- An `RW` register reads back what was written, masked to its fields. -/
theorem Reg.read_write_self {r : Reg} (h : r.mask ≠ 0#32) (v : Word) (g : Registers) :
    r.read (r.write v g) = v &&& r.mask := by
  apply BitVec.eq_of_toNat_eq
  cases r with
  | off | len | valLo | valHi => exact congrArg BitVec.toNat BitVec.and_allOnes.symm
  | cfg =>
    rw [toNat_and_low_ones v _ 5 rfl, Reg.read_cfg_toNat]
    simp only [Reg.write, toNat_extract_eq, toNat_getLsbD]
    omega
  | dlFramelen =>
    rw [toNat_and_low_ones v _ 17 rfl]
    exact (toNat_zero_append 15 (v.extractLsb' 0 17)).trans (by rw [toNat_extract_eq]; omega)
  | aosInsert =>
    rw [toNat_and_low_ones v _ 16 rfl]
    exact (toNat_zero_append 16 (v.extractLsb' 0 16)).trans (by rw [toNat_extract_eq]; omega)
  | tcCfg =>
    rw [Reg.mask, toNat_and_tcCfg_mask, Reg.read_tcCfg_toNat]
    simp only [Reg.write, toNat_extract_eq]
    omega
  | tcCtl =>
    rw [toNat_and_low_ones v _ 10 rfl, Reg.read_tcCtl_toNat]
    simp only [Reg.write, toNat_extract_eq, toNat_getLsbD]
    omega
  | _ => exact absurd rfl h

/-- A write to one register leaves what every other register reads. -/
theorem Reg.read_write_other {r q : Reg} (h : q ≠ r) (v : Word) (g : Registers) :
    q.read (r.write v g) = q.read g := by
  cases r with
  | off =>
    cases q with
    | off => exact absurd rfl h
    | _ => rfl
  | len =>
    cases q with
    | len => exact absurd rfl h
    | _ => rfl
  | valLo =>
    cases q with
    | valLo => exact absurd rfl h
    | _ => rfl
  | valHi =>
    cases q with
    | valHi => exact absurd rfl h
    | _ => rfl
  | cfg =>
    cases q with
    | cfg => exact absurd rfl h
    | _ => rfl
  | dlFramelen =>
    cases q with
    | dlFramelen => exact absurd rfl h
    | _ => rfl
  | aosInsert =>
    cases q with
    | aosInsert => exact absurd rfl h
    | _ => rfl
  | tcCfg =>
    cases q with
    | tcCfg => exact absurd rfl h
    | _ => rfl
  | tcCtl =>
    cases q with
    | tcCtl => exact absurd rfl h
    | _ => rfl
  | _ => rfl

theorem mem_registerMap_of_regAt {f : BitVec 6} {r : Reg} (h : regAt f = some r) :
    (4 * f.toNat, r) ∈ registerMap := by
  obtain ⟨l, l', hmap, -⟩ := List.lookup_eq_some_iff.1 h
  simp [hmap]

/-- No two offsets name one register. -/
theorem regAt_inj {f f' : BitVec 6} {r : Reg} (h : regAt f = some r) (h' : regAt f' = some r) : f = f' := by
  have once : (registerMap.map Prod.snd).Nodup := by decide
  have hoff := List.inj_on_of_nodup_map once (mem_registerMap_of_regAt h) (mem_registerMap_of_regAt h') rfl
  have hnum : 4 * f.toNat = 4 * f'.toNat := congrArg Prod.fst hoff
  exact BitVec.eq_of_toNat_eq (by omega)

/-- What every offset reads after a host's register write: the masked value at the offset written, nothing new
elsewhere. -/
theorem regRead_regStore (s : State) (f g : BitVec 6) (v : Word) :
    (s.regStore f v).regRead g = if g = f ∧ fieldMask f ≠ 0#32 then v &&& fieldMask f else s.regRead g := by
  rcases regStore_cases s f v with ⟨r, hf, e⟩ | ⟨hf, e⟩
  · have hmask : fieldMask f = r.mask := by rw [fieldMask_eq, hf]; rfl
    rw [e, hmask]
    by_cases hr : r.mask = 0#32
    · rw [if_neg (by simp [hr]), Reg.write_of_mask_eq_zero hr]
    · by_cases hg : g = f
      · rw [if_pos ⟨hg, hr⟩, hg, regRead_of_regAt hf, Reg.read_write_self hr]
      · rw [if_neg (by simp [hg])]
        cases hq : regAt g with
        | none => rw [regRead_of_regAt_none hq, regRead_of_regAt_none hq]
        | some q =>
          have hne : q ≠ r := fun hqr => hg (regAt_inj (hqr ▸ hq) hf)
          rw [regRead_of_regAt hq, regRead_of_regAt hq, Reg.read_write_other hne]
  · have hmask : fieldMask f = 0#32 := by rw [fieldMask_eq, hf]; rfl
    rw [e, if_neg (by simp [hmask])]

/-- A register write to another offset than `CMD`'s stores and runs nothing. -/
theorem hostAccess_regWrite {f : BitVec 6} (hf : f ≠ 0#6) (v : Word) (s : State) :
    hostAccess (.regWrite f v) s = .next (s.regStore f v) :=
  if_neg hf

/-- Settles O9: the access is `regStore`, whose reads are `regRead_regStore`. -/
theorem registerWriteStoresExactlyTheFieldBits : Obligations.RegisterWriteStoresExactlyTheFieldBits := by
  unfold Obligations.RegisterWriteStoresExactlyTheFieldBits
  intro s f v hf
  exact ⟨_, hostAccess_regWrite hf v s, fun g => regRead_regStore s f g v, regStore_params s f v, regStore_buf s f v,
    regStore_epoch s f v, regStore_inputs s f v, regStore_replies s f v⟩

end Sys2Proof.Machine
end

section
/-! PROOFS of the frame statements of 10_state.md: which command writes which part of the state, how the status
registers follow the completions, and which command can stop. -/

namespace Sys2Proof.Machine

open Sys2Proof.Laws Sys2Proof.Claims

/-! ## Stopping -/

/-- R48 invariant 4 is what TCENC relies on (43_tcenc.md R194). -/
theorem tcFrameInside_of_descriptorInv {s : State} (h : DescriptorInv s.params s.regs)
    (hv : s.regs.status.tcvalid = true) : tcFrameInside s := by
  obtain ⟨-, hframe⟩ := h
  obtain ⟨-, hdend, hflen, -, hin⟩ := hframe hv
  refine ⟨by omega, ?_⟩
  rw [tcHdrLen]
  omega

/-- TCENC goes on, or meets a descriptor that R48 rules out. -/
theorem execTcenc_next_or_fault (s : State) :
    (∃ t, execTcenc s = .next t) ∨
      execTcenc s = .fault .tcFrameOutsideBuffer ∧ ¬ DescriptorInv s.params s.regs := by
  rcases execTcenc_cases s with ⟨-, e⟩ | ⟨-, -, e⟩ | ⟨hv, -, hout, e⟩ | ⟨-, -, -, e⟩
  · exact .inl ⟨_, e⟩
  · exact .inl ⟨_, e⟩
  · exact .inr ⟨e, fun hd => hout (tcFrameInside_of_descriptorInv hd hv)⟩
  · exact .inl ⟨_, e⟩

/-- Every command but TCENC goes on. -/
theorem exec_next_of_ne_tcenc {i : Instr} (hi : i ≠ .tcenc) (s : State) : ∃ t, exec i s = .next t := by
  cases i with
  | tcenc => exact absurd rfl hi
  | rdbe n => rcases execRdbe_cases n s with ⟨-, e⟩ | ⟨-, -, e⟩ | ⟨-, -, e⟩ <;> exact ⟨_, e⟩
  | wrbe n => rcases execWrbe_cases n s with ⟨-, e⟩ | ⟨-, -, e⟩ | ⟨-, -, e⟩ <;> exact ⟨_, e⟩
  | tcmk vcid plen => rcases execTcmk_cases vcid plen s with ⟨-, e⟩ | ⟨-, -, -, e⟩ | ⟨-, -, -, e⟩ <;> exact ⟨_, e⟩
  | _ => exact ⟨_, rfl⟩

/-- Settles O40: every command but TCENC goes on, and TCENC stops where its frame is not inside the buffer. -/
theorem onlyTcencOnABrokenDescriptorStops : Obligations.OnlyTcencOnABrokenDescriptorStops := by
  unfold Obligations.OnlyTcencOnABrokenDescriptorStops
  refine ⟨fun i s => ?_, fun s hv hmax hbroken => ?_⟩
  · by_cases hi : i = .tcenc
    · subst hi
      exact (execTcenc_next_or_fault s).imp_right fun h => ⟨rfl, h⟩
    · exact .inl (exec_next_of_ne_tcenc hi s)
  · have hout : ¬ tcFrameInside s := by
      rintro ⟨hin, hroom⟩
      rw [tcHdrLen] at hroom
      omega
    rcases execTcenc_cases s with ⟨hn, -⟩ | ⟨-, hlong, -⟩ | ⟨-, -, -, e⟩ | ⟨-, -, hin, -⟩
    · simp [hv] at hn
    · omega
    · exact e
    · exact absurd hin hout

/-! ## Illegal words (30_encoding.md R94): the format of each opcode (R91, R92) -/

theorem decodeFields_bare {op : BitVec 8}
    (hop : op.toNat ∈ [0x00, 0x01, 0x02, 0x41, 0x10, 0x11, 0x12, 0x13, 0x30, 0x31, 0x32]) :
    ∃ j, ∀ imm, decodeFields op imm = decodeBare imm j := by
  have hop' : op ∈ [0x00#8, 0x01#8, 0x02#8, 0x41#8, 0x10#8, 0x11#8, 0x12#8, 0x13#8, 0x30#8, 0x31#8, 0x32#8] := by
    simpa [toNat_eq_iff] using hop
  simp only [List.mem_cons, List.not_mem_nil, or_false] at hop'
  rcases hop' with rfl | rfl | rfl | rfl | rfl | rfl | rfl | rfl | rfl | rfl | rfl <;> exact ⟨_, fun _ => rfl⟩

theorem decodeFields_width {op : BitVec 8} (hop : op.toNat ∈ [0x20, 0x21]) :
    ∃ j, ∀ imm, decodeFields op imm = decodeWidth imm j := by
  have hop' : op ∈ [0x20#8, 0x21#8] := by simpa [toNat_eq_iff] using hop
  simp only [List.mem_cons, List.not_mem_nil, or_false] at hop'
  rcases hop' with rfl | rfl <;> exact ⟨_, fun _ => rfl⟩

theorem decodeFields_make {op : BitVec 8} (hop : op.toNat = 0x40) (imm : BitVec 24) :
    decodeFields op imm = decodeMake imm := by
  have hop' : op = 0x40#8 := (toNat_eq_iff _ _).2 hop
  subst hop'
  rfl

/-- No word that decodes is illegal, by the format of its opcode. -/
theorem not_illegalWord_of_decode {w : Word} {i : Instr} (h : decode w = .ok i) : ¬ IllegalWord w := by
  intro hw
  simp only [IllegalWord, ← opField_toNat, ← immField_toNat] at hw
  rw [decode] at h
  rcases hw with hop | ⟨hop, himm⟩ | ⟨hop, himm⟩ | ⟨hop, himm⟩
  · rcases opcode_cases (opField w) with hmem | ⟨-, he⟩
    · exact hop (List.mem_map_of_mem (f := BitVec.toNat) hmem)
    · cases (he _).symm.trans h
  · obtain ⟨j, hj⟩ := decodeFields_bare hop
    exact himm (decodeBare_ok.1 (hj _ ▸ h)).1
  · obtain ⟨j, hj⟩ := decodeFields_width hop
    obtain ⟨n, ⟨hlo, hhi⟩, hn, -⟩ := decodeWidth_ok.1 (hj _ ▸ h)
    have hval : (immField w).toNat = n.toNat := by
      rw [hn]
      exact toNat_zero_append 20 n
    omega
  · obtain ⟨v, p, hvp, -⟩ := decodeMake_ok.1 (decodeFields_make hop _ ▸ h)
    have hval : (immField w).toNat = p.toNat * 2 ^ 6 + v.toNat := by
      rw [hvp]
      exact (toNat_append_eq (0#8 ++ p) v).trans (by rw [toNat_zero_append])
    omega

/-- An illegal word ends with E_ILLCMD. -/
theorem runCommand_of_illegalWord {w : Word} (hw : IllegalWord w) (s : State) :
    runCommand w s = .next (s.raise .illCmd) := by
  rcases runCommand_cases w s with ⟨i, hi, -⟩ | ⟨r, -, e⟩
  · exact absurd hw (not_illegalWord_of_decode hi)
  · exact e

/-! ## The other host accesses -/

/-- A host access that writes no command completes nothing (60_exceptions.md R225). -/
theorem hostAccess_completes_nothing {a : HostAccess} (ha : ∀ w, a ≠ .regWrite 0#6 w) (s : State) :
    ∃ t, hostAccess a s = .next t ∧ t.regs.status = s.regs.status ∧ t.regs.errFlags = s.regs.errFlags ∧
      t.regs.cntCorrupt = s.regs.cntCorrupt := by
  cases a with
  | regRead f => exact ⟨_, rfl, rfl, rfl, rfl⟩
  | bufRead j => exact ⟨_, rfl, rfl, rfl, rfl⟩
  | bufWrite j v => exact ⟨_, rfl, by simp⟩
  | regWrite f v =>
    have hf : f ≠ 0#6 := fun h => ha v (h ▸ rfl)
    exact ⟨_, hostAccess_regWrite hf v s, by simp⟩

/-! ## ERRFLAGS and CNT_CORRUPT as the host reads them -/

theorem regRead_errFlags (s : State) : s.regRead 2#6 = errFlagsWord s.regs.errFlags := rfl

theorem regRead_cntCorrupt (s : State) : s.regRead 32#6 = s.regs.cntCorrupt := rfl

/-- Bit 0 and bits 31:8 of `ERRFLAGS` hold no flag (10_state.md R26). -/
theorem errFlagsWord_reserved (f : BitVec 7) : errFlagsWord f &&& 0xFFFFFF01#32 = 0#32 := by
  revert f
  decide

theorem errFlagsWord_zero : errFlagsWord 0#7 = 0#32 := rfl

/-- Settles O42: `Reports.errFlagsWord_eq` for the commands; CLRERR and SRST succeed on top of cleared flags. -/
theorem stickyFlagsFollowTheCompletions : Obligations.StickyFlagsFollowTheCompletions := by
  unfold Obligations.StickyFlagsFollowTheCompletions
  refine ⟨fun i s t h => ?_, fun s w hw => ?_, fun s a ha => ?_,
    fun s => ⟨_, rfl, regRead_reset _ rfl 2#6⟩, fun s => errFlagsWord_reserved _⟩
  · simp only [regRead_errFlags]
    by_cases hc : i = .clrerr
    · subst hc
      rw [if_pos (.inl rfl), ← next_inj h]
      exact errFlagsWord_zero
    · by_cases hs : i = .srst
      · subst hs
        rw [if_pos (.inr rfl), ← next_inj h]
        exact errFlagsWord_zero
      · rw [if_neg (by simp [hc, hs]), (exec_reports h).errFlagsWord_eq, beforeReport_eq_self _ hc hs]
  · refine ⟨_, runCommand_of_illegalWord hw s, rfl, ?_⟩
    simp only [regRead_errFlags]
    exact (reports_raise s .illCmd).errFlagsWord_eq
  · obtain ⟨t, ht, -, hflags, -⟩ := hostAccess_completes_nothing ha s
    exact ⟨t, ht, congrArg errFlagsWord hflags⟩

/-- Settles O43: `Reports.cntCorrupt_eq` for the commands; SRST succeeds on top of a cleared counter. -/
theorem corruptCounterCountsEveryCorruptCompletion : Obligations.CorruptCounterCountsEveryCorruptCompletion := by
  unfold Obligations.CorruptCounterCountsEveryCorruptCompletion
  refine ⟨fun i s t h => ?_, fun s w hw => ?_, fun s a ha => ?_,
    fun s => ⟨_, rfl, regRead_reset _ rfl 32#6⟩⟩
  · simp only [regRead_cntCorrupt]
    by_cases hs : i = .srst
    · subst hs
      rw [if_pos rfl, ← next_inj h]
      rfl
    · have hcount : (beforeReport i s.regs).cntCorrupt = s.regs.cntCorrupt := by
        cases i with
        | srst => exact absurd rfl hs
        | _ => rfl
      rw [if_neg hs, (exec_reports h).cntCorrupt_eq, hcount]
      split
      · exact BitVec.toNat_add _ _
      · rfl
  · exact ⟨_, runCommand_of_illegalWord hw s, rfl, (reports_raise s .illCmd).cntCorrupt_eq⟩
  · obtain ⟨t, ht, -, -, hcount⟩ := hostAccess_completes_nothing ha s
    exact ⟨t, ht, hcount⟩

/-! ## Who writes what -/

/-- Settles O44: the frames of the parse results and of the descriptor, and the codes of every completion. -/
theorem statusIsWrittenAsTheRulesSay : Obligations.StatusIsWrittenAsTheRulesSay := by
  unfold Obligations.StatusIsWrittenAsTheRulesSay
  intro i s t h
  exact ⟨fun hi => (exec_keeps_results h hi).1, fun hmk hs => (exec_keeps_descriptor h hmk hs).1,
    (exec_reports h).codes⟩

/-- Settles O45, by what each command can leave: only SRST and RDBE touch the operands. -/
theorem commandsKeepOperandsAndConfiguration : Obligations.CommandsKeepOperandsAndConfiguration := by
  unfold Obligations.CommandsKeepOperandsAndConfiguration
  intro i s t h hs
  cases exec_completes h with
  | srst => exact absurd rfl hs
  | read n => exact ⟨rfl, rfl, rfl, rfl, rfl, rfl, rfl, fun hr => absurd rfl (hr n)⟩
  | _ => simp

/-- Settles O46, by what each command can leave: every other completion keeps `buf`, so every byte. -/
theorem onlyThreeCommandsWriteTheBuffer : Obligations.OnlyThreeCommandsWriteTheBuffer := by
  unfold Obligations.OnlyThreeCommandsWriteTheBuffer
  intro i s t h hw hmk he
  have hbuf : t.buf = s.buf ∧ t.epoch = s.epoch := by
    cases exec_completes h with
    | write n => exact absurd rfl (hw n)
    | made vcid plen => exact absurd rfl (hmk vcid plen)
    | encoded => exact absurd rfl he
    | _ => simp
  exact ⟨hbuf.1, hbuf.2, byteAt_congr (exec_params h) hbuf.1 hbuf.2⟩

end Sys2Proof.Machine
end

section
/-! PROOFS of the statements of 20_memory.md: the address map of the port, what the two reads answer, and what a
buffer write changes. -/

namespace Sys2Proof.Machine

open Sys2Proof.Laws Sys2Proof.Claims

/-! ## The address map (R60) -/

/-- The register window: the offset `4 * f` names the word index `f` and no other, and every aligned address below
0x100 is such an offset. -/
theorem eq_registerOffset_iff (a : BitVec 17) (f : BitVec 6) :
    a.toNat = 4 * f.toNat ↔ (a.toNat < 0x100 ∧ a.toNat % 4 = 0) ∧ f = BitVec.ofNat 6 (a.toNat / 4) := by
  have hf : f.toNat < 64 := f.isLt
  rw [← BitVec.toNat_inj, BitVec.toNat_ofNat]
  omega

/-- The buffer window: its addresses are those from 0x10000 on, one for each 16-bit index, since the address has 17
bits. -/
theorem eq_bufferAddress_iff (a : BitVec 17) (i : BitVec 16) :
    a.toNat = 0x10000 + i.toNat ↔ 0x10000 ≤ a.toNat ∧ i = BitVec.ofNat 16 (a.toNat - 0x10000) := by
  have hi : i.toNat < 0x10000 := i.isLt
  have ha : a.toNat < 0x20000 := a.isLt
  rw [← BitVec.toNat_inj, BitVec.toNat_ofNat]
  omega

/-- A window of the port: inside it (`p`) the address has exactly one index `i₀`, and an access there is the one that
`mk` builds for this index. -/
theorem window_eq_some_iff {n : Nat} {p : Prop} [Decidable p] {isAt : BitVec n → Prop} {i₀ : BitVec n}
    (hat : ∀ i, isAt i ↔ p ∧ i = i₀) (mk : BitVec n → HostAccess) (h : HostAccess) :
    (if p then some (mk i₀) else none) = some h ↔ ∃ i, isAt i ∧ h = mk i := by
  by_cases hp : p
  · simp [hat, hp, eq_comm]
  · simp [hat, hp]

/-- Settles O12: each width reaches one window, and a 16-bit access none. -/
theorem addressMapHasTwoWindows : Obligations.AddressMapHasTwoWindows := by
  unfold Obligations.AddressMapHasTwoWindows
  intro a h
  have register := window_eq_some_iff (eq_registerOffset_iff a)
  have buffer := window_eq_some_iff (eq_bufferAddress_iff a)
  exact ⟨register .regRead h, fun v => register (.regWrite · v) h, buffer .bufRead h,
    fun v => buffer (.bufWrite · v) h, (Option.some_ne_none h).symm,
    fun _ => (Option.some_ne_none h).symm⟩

/-! ## Reads (R61, R67) -/

/-- The step that takes a host access: the access, whole, with its input taken off the list (R62). -/
theorem step_of_access {s : State} {a : HostAccess} {rest : List Input} (h : s.inputs = .access a :: rest) :
    step s = hostAccess a { s with inputs := rest } := by
  rw [step, h]
  rfl

theorem byteAt_of_bufSize_le {s : State} {a : Nat} (h : s.params.bufSize ≤ a) : s.byteAt a = 0#8 :=
  if_neg (Nat.not_lt.2 h)

/-- `CMD` holds nothing (10_state.md R28). -/
theorem regRead_cmd (s : State) : s.regRead 0#6 = 0#32 := rfl

/-- Settles O7: a read is a reply and nothing else; `CMD` and the offsets without a register read 0. -/
theorem hostReadsAnswerAndChangeNothing : Obligations.HostReadsAnswerAndChangeNothing := by
  unfold Obligations.HostReadsAnswerAndChangeNothing
  refine ⟨fun s f rest h => step_of_access h, fun s i rest h => step_of_access h,
    fun s i h => byteAt_of_bufSize_le h, fun s f hf => ?_⟩
  rcases hf with rfl | hf
  · exact regRead_cmd s
  · exact regRead_of_regAt_none (regAt_eq_none f (by omega)) s

/-! ## Buffer writes (R61) -/

/-- Settles O10: the access is `setByte`, whose bytes are `byteAt_setByte` and which keeps every other field. -/
theorem bufferWriteChangesOneByte : Obligations.BufferWriteChangesOneByte := by
  unfold Obligations.BufferWriteChangesOneByte
  intro s i v
  refine ⟨s.setByte i.toNat v, rfl, fun a => ?_, setByte_regs .., setByte_params .., setByte_epoch ..,
    setByte_inputs .., setByte_replies ..⟩
  have hindex : a = i.toNat ∧ a < s.params.bufSize ↔ a = i.toNat ∧ i.toNat < s.params.bufSize :=
    and_congr_right fun h => by rw [h]
  simp only [byteAt_setByte, hindex]

end Sys2Proof.Machine
end

section
/-! PROOFS of the statements of 30_encoding.md: the decoder accepts exactly the encodings of the well-formed commands,
and the words it refuses are exactly those of R94. -/

namespace Sys2Proof.Machine

open Sys2Proof.Laws Sys2Proof.Claims

/-! ## The decoder accepts exactly the encodings (R90 to R93) -/

/-- The two fields of a word put together from an opcode and an operand field (R90). -/
theorem opField_append (op : BitVec 8) (imm : BitVec 24) : opField (op ++ imm) = op := by
  have := imm.isLt
  rw [toNat_eq_iff, opField_toNat, toNat_append_eq]
  omega

theorem immField_append (op : BitVec 8) (imm : BitVec 24) : immField (op ++ imm) = imm := by
  have := imm.isLt
  rw [toNat_eq_iff, immField_toNat, toNat_append_eq]
  omega

theorem encode_eq_iff {i : Instr} {w : Word} : encode i = w ↔ i.opcode = opField w ∧ i.imm = immField w := by
  constructor
  · rintro rfl
    exact ⟨(opField_append _ _).symm, (immField_append _ _).symm⟩
  · rintro ⟨hop, himm⟩
    rw [encode, hop, himm, word_fields]

/-- A well-formed command's own fields decode to it: its opcode selects its format, and the format its operands. -/
theorem decodeFields_opcode_imm {i : Instr} (h : i.wf = true) : decodeFields i.opcode i.imm = .ok i := by
  cases i with
  | rdbe n => exact decodeWidth_ok.2 ⟨n, of_decide_eq_true h, rfl, rfl⟩
  | wrbe n => exact decodeWidth_ok.2 ⟨n, of_decide_eq_true h, rfl, rfl⟩
  | tcmk vcid plen => exact decodeMake_ok.2 ⟨vcid, plen, rfl, rfl⟩
  | _ => rfl

/-- Fields that decode are the fields of the well-formed command they decode to, by the opcode map of R92. -/
theorem fields_of_decodeFields {op : BitVec 8} {imm : BitVec 24} {i : Instr} (h : decodeFields op imm = .ok i) :
    i.wf = true ∧ i.opcode = op ∧ i.imm = imm := by
  have bare (j : Instr) (hwf : j.wf = true) (hj : j.imm = 0#24) (hdec : decodeBare imm j = .ok i) :
      i.wf = true ∧ i.opcode = j.opcode ∧ i.imm = imm := by
    obtain ⟨himm, rfl⟩ := decodeBare_ok.1 hdec
    exact ⟨hwf, rfl, hj.trans ((toNat_eq_iff _ _).2 himm.symm)⟩
  rcases opcode_cases op with hmem | ⟨-, he⟩
  · simp only [List.mem_cons, List.not_mem_nil, or_false] at hmem
    rcases hmem with rfl | rfl | rfl | rfl | rfl | rfl | rfl | rfl | rfl | rfl | rfl | rfl | rfl | rfl
    · exact bare .nop rfl rfl h
    · exact bare .clrerr rfl rfl h
    · exact bare .srst rfl rfl h
    · exact bare .crc16 rfl rfl h
    · exact bare .crc32 rfl rfl h
    · exact bare .chk16 rfl rfl h
    · exact bare .chk32 rfl rfl h
    · obtain ⟨n, hn, rfl, rfl⟩ := decodeWidth_ok.1 h
      exact ⟨decide_eq_true hn, rfl, rfl⟩
    · obtain ⟨n, hn, rfl, rfl⟩ := decodeWidth_ok.1 h
      exact ⟨decide_eq_true hn, rfl, rfl⟩
    · exact bare .ptm rfl rfl h
    · exact bare .paos rfl rfl h
    · exact bare .puslp rfl rfl h
    · obtain ⟨vcid, plen, rfl, rfl⟩ := decodeMake_ok.1 h
      exact ⟨rfl, rfl, rfl⟩
    · exact bare .tcenc rfl rfl h
  · cases (he imm).symm.trans h

/-- The decoder reads a command from exactly its encoding, and only well-formed commands. -/
theorem decode_eq_ok_iff {w : Word} {i : Instr} : decode w = .ok i ↔ i.wf = true ∧ encode i = w := by
  rw [encode_eq_iff]
  constructor
  · exact fields_of_decodeFields
  · rintro ⟨hwf, hop, himm⟩
    rw [decode, ← hop, ← himm]
    exact decodeFields_opcode_imm hwf

/-- Settles O1: `decode_eq_ok_iff` at the command's own word. -/
theorem decodeInvertsEncode : Obligations.DecodeInvertsEncode := by
  unfold Obligations.DecodeInvertsEncode
  intro i hwf
  exact decode_eq_ok_iff.2 ⟨hwf, rfl⟩

/-- Settles O2: the other direction of `decode_eq_ok_iff`. -/
theorem encodeInvertsDecode : Obligations.EncodeInvertsDecode := by
  unfold Obligations.EncodeInvertsDecode
  intro w i h
  exact decode_eq_ok_iff.1 h

/-- Settles O4: each word is the encoding of its command. -/
theorem writtenOutWordsDecodeToTheirCommands : Obligations.WrittenOutWordsDecodeToTheirCommands := by
  unfold Obligations.WrittenOutWordsDecodeToTheirCommands
  simp only [decode_eq_ok_iff]
  decide

/-! ## The words the decoder refuses (R94) -/

/-- Format `W` with its must-be-zero bits 0 and `n` from 1 to 8 decodes. -/
theorem exists_decodeWidth {imm : BitVec 24} (hzero : imm.toNat / 2 ^ 4 = 0) (hlo : imm.toNat % 2 ^ 4 ≠ 0)
    (hhi : imm.toNat % 2 ^ 4 < 9) (j : BitVec 4 → Instr) : ∃ i, decodeWidth imm j = .ok i := by
  have hmbz : imm.extractLsb' 4 20 = 0#20 := by
    rw [toNat_eq_iff, toNat_extract_eq, hzero]
    rfl
  have hwidth : legalWidth (imm.extractLsb' 0 4) := by
    rw [legalWidth, toNat_extract_eq]
    omega
  exact ⟨_, (if_pos hmbz).trans (if_pos hwidth)⟩

/-- Format `M` with its must-be-zero bits 0 decodes. -/
theorem exists_decodeMake {imm : BitVec 24} (hzero : imm.toNat / 2 ^ 16 = 0) : ∃ i, decodeMake imm = .ok i := by
  have hmbz : imm.extractLsb' 16 8 = 0#8 := by
    rw [toNat_eq_iff, toNat_extract_eq, hzero]
    rfl
  exact ⟨_, if_pos hmbz⟩

/-- Every word that is not illegal decodes, by the format of its opcode. -/
theorem exists_decode_of_not_illegalWord {w : Word} (hw : ¬ IllegalWord w) : ∃ i, decode w = .ok i := by
  simp only [IllegalWord, ← opField_toNat, ← immField_toNat, not_or, not_and, not_not] at hw
  obtain ⟨hop, hbare, hwidth, hmake⟩ := hw
  rw [decode]
  by_cases hb : (opField w).toNat ∈ [0x00, 0x01, 0x02, 0x41, 0x10, 0x11, 0x12, 0x13, 0x30, 0x31, 0x32]
  · obtain ⟨j, hj⟩ := decodeFields_bare hb
    exact ⟨j, (hj _).trans (decodeBare_ok.2 ⟨hbare hb, rfl⟩)⟩
  by_cases hn : (opField w).toNat ∈ [0x20, 0x21]
  · obtain ⟨j, hj⟩ := decodeFields_width hn
    obtain ⟨hzero, hlo, hhi⟩ := hwidth hn
    rw [hj]
    exact exists_decodeWidth hzero hlo (Nat.not_le.1 hhi) j
  · have hm : (opField w).toNat = 0x40 := by
      simp only [List.mem_cons, List.not_mem_nil, or_false] at hop hb hn
      omega
    rw [decodeFields_make hm]
    exact exists_decodeMake (hmake hm)

/-- E_ILLCMD reports its code and its flag and counts nothing (60_exceptions.md R221, R224). -/
theorem raise_illCmd (s : State) : s.raise .illCmd = afterIllegalWord s := by
  have hcount : s.regs.cntCorrupt + Failure.count .illCmd = s.regs.cntCorrupt := BitVec.add_zero _
  rw [State.raise, hcount]
  rfl

/-- The word of a TCMK, field by field (R91). -/
theorem encode_tcmk (vcid : BitVec 6) (plen : BitVec 10) :
    encode (.tcmk vcid plen) = 0x40#8 ++ 0#8 ++ plen ++ vcid := by
  have himm : (0#8 ++ plen ++ vcid).toNat = plen.toNat * 2 ^ 6 + vcid.toNat := by
    rw [toNat_append_eq, toNat_zero_append]
  have hword : (0x40#8 ++ 0#8 ++ plen ++ vcid).toNat = 0x40 * 2 ^ 24 + plen.toNat * 2 ^ 6 + vcid.toNat := by
    simp only [toNat_append_eq, BitVec.toNat_ofNat]
    omega
  refine (toNat_eq_iff _ _).2 (Eq.trans ?_ hword.symm)
  rw [encode, toNat_append_eq, Instr.imm, himm, Nat.add_assoc]
  rfl

/-- TCMK reports a `plen` that makes the frame too long (43_tcenc.md R191). -/
theorem tcmk_endsWith_tooLong {s : State} {plen : BitVec 10}
    (h : s.regs.tcCfg.maxlen.toNat < tcmkLength s plen ∨ 1024 < tcmkLength s plen) (vcid : BitVec 6) :
    EndsWith (.tcmk vcid plen) s 2#4 0#4 := by
  rcases execTcmk_cases vcid plen s with ⟨-, e⟩ | ⟨hmax, hlim, -⟩ | ⟨hmax, hlim, -⟩
  · exact ⟨_, e, rfl, rfl⟩
  · omega
  · omega

/-- Settles O3: a word is illegal exactly when it does not decode, and every `tcmk` term has a word that does. -/
theorem illegalWordsRaiseIllcmdAndChangeNothingElse : Obligations.IllegalWordsRaiseIllcmdAndChangeNothingElse := by
  unfold Obligations.IllegalWordsRaiseIllcmdAndChangeNothingElse
  constructor
  · intro s w rest hin
    refine ⟨fun hw => ?_, fun hw => ?_⟩
    · calc step s = runCommand w { s with inputs := rest } := step_of_access hin
        _ = .next (({ s with inputs := rest } : State).raise .illCmd) := runCommand_of_illegalWord hw _
        _ = .next (afterIllegalWord { s with inputs := rest }) := by rw [raise_illCmd]
    · obtain ⟨i, hi⟩ := exists_decode_of_not_illegalWord hw
      exact ⟨i, (encodeInvertsDecode w i hi).1, hi, stepRunsTheDecodedCommand s w i rest hin hi⟩
  · intro s vcid plen flen hlong
    refine ⟨?_, tcmk_endsWith_tooLong hlong vcid⟩
    exact not_illegalWord_of_decode (decode_eq_ok_iff.2 ⟨rfl, encode_tcmk vcid plen⟩)

/-! ## Terms of no word -/

theorem decode_ne_ok_of_not_wf {i : Instr} (hi : ¬ i.wf = true) (w : Word) : decode w ≠ .ok i :=
  fun h => hi (decode_eq_ok_iff.1 h).1

/-- Settles O26: both commands check the width first, and the decoder gives only well-formed commands. -/
theorem widthsOfNoLegalWordRaiseIllcmd : Obligations.WidthsOfNoLegalWordRaiseIllcmd := by
  unfold Obligations.WidthsOfNoLegalWordRaiseIllcmd
  intro s n hn
  have hwidth : ¬ legalWidth n := by omega
  have hrdbe : ¬ (Instr.rdbe n).wf = true := fun h => hwidth (of_decide_eq_true h)
  have hwrbe : ¬ (Instr.wrbe n).wf = true := fun h => hwidth (of_decide_eq_true h)
  rw [← raise_illCmd]
  exact ⟨if_pos hwidth, if_pos hwidth,
    fun w => ⟨decode_ne_ok_of_not_wf hrdbe w, decode_ne_ok_of_not_wf hwrbe w⟩⟩

end Sys2Proof.Machine
end

section
/-! SUPPORT for the statements of 40_crc.md: one CRC shift register for every width and generator, of which `crc16` and
`crc32` are the widths 16 and 32; its contents as a class of polynomials over GF(2) modulo the generator. -/

namespace Sys2Proof.Machine

open Sys2Proof.Claims Polynomial

/-! ## Bit vectors as polynomials -/

theorem bitPoly_coeff {w : Nat} (v : BitVec w) (i : Nat) : (bitPoly v).coeff i = if v.getLsbD i then 1 else 0 := by
  have hterm (j : Nat) : (if v.getLsbD j then (X : (ZMod 2)[X]) ^ j else 0).coeff i
      = if j = i then (if v.getLsbD i then 1 else 0) else 0 := by
    by_cases hj : j = i
    · subst hj
      cases v.getLsbD j <;> simp
    · cases v.getLsbD j <;> simp [coeff_X_pow, hj, Ne.symm hj]
  rw [bitPoly, finsetSum_coeff, Finset.sum_congr rfl fun j _ => hterm j, Finset.sum_ite_eq']
  by_cases hi : i < w
  · rw [if_pos (Finset.mem_range.2 hi)]
  · rw [if_neg (mt Finset.mem_range.1 hi), BitVec.getLsbD_of_ge v i (Nat.not_lt.1 hi)]
    rfl

theorem bitPoly_degree_lt {w : Nat} (v : BitVec w) : (bitPoly v).degree < w := by
  rw [degree_lt_iff_coeff_zero]
  intro i hi
  rw [bitPoly_coeff, BitVec.getLsbD_of_ge v i hi]
  rfl

theorem bitPoly_injective {w : Nat} : Function.Injective (bitPoly (w := w)) := by
  intro u v h
  apply BitVec.eq_of_getLsbD_eq
  intro i _
  have hcoeff := congrArg (fun p => p.coeff i) h
  simp only [bitPoly_coeff] at hcoeff
  cases hu : u.getLsbD i <;> cases hv : v.getLsbD i <;> simp [hu, hv] at hcoeff ⊢

@[simp] theorem bitPoly_zero (w : Nat) : bitPoly 0#w = 0 := by
  ext i
  simp [bitPoly_coeff]

@[simp] theorem bitPoly_xor {w : Nat} (u v : BitVec w) : bitPoly (u ^^^ v) = bitPoly u + bitPoly v := by
  ext i
  rw [coeff_add, bitPoly_coeff, bitPoly_coeff, bitPoly_coeff, BitVec.getLsbD_xor]
  cases u.getLsbD i <;> cases v.getLsbD i <;> decide

/-- The high bits of a word stand in front of its low bits. -/
theorem bitPoly_split {m k : Nat} (v : BitVec (m + k)) :
    bitPoly v = bitPoly (v.extractLsb' k m) * X ^ k + bitPoly (v.extractLsb' 0 k) := by
  ext i
  rw [coeff_add, coeff_mul_X_pow']
  simp only [bitPoly_coeff, BitVec.getLsbD_extractLsb']
  by_cases hk : k ≤ i
  · by_cases hm : i - k < m
    · simp [hk, hm, Nat.not_lt.2 hk]
    · simp [hk, hm, Nat.not_lt.2 hk, BitVec.getLsbD_of_ge v i (by omega)]
  · simp [hk, Nat.lt_of_not_le hk]

/-- A byte at the top of a word of at least 8 bits. -/
theorem bitPoly_byte_shiftLeft {w : Nat} (hw : 8 ≤ w) (b : Byte) :
    bitPoly (b.setWidth w <<< (w - 8)) = bitPoly b * X ^ (w - 8) := by
  ext i
  rw [coeff_mul_X_pow', bitPoly_coeff, bitPoly_coeff, BitVec.getLsbD_shiftLeft, BitVec.getLsbD_setWidth]
  by_cases hlow : w - 8 ≤ i
  · by_cases hi : i < w
    · simp [hlow, hi, Nat.not_lt.2 hlow, show i - (w - 8) < w by omega]
    · simp [hlow, hi, BitVec.getLsbD_of_ge b (i - (w - 8)) (by omega)]
  · simp [hlow, Nat.lt_of_not_le hlow]

/-- A shift multiplies by `X`, and the highest bit leaves the word. -/
theorem bitPoly_shiftLeft_one {w : Nat} (hw : 0 < w) (r : BitVec w) :
    bitPoly (r <<< 1) = bitPoly r * X + if r.getLsbD (w - 1) then X ^ w else 0 := by
  ext i
  have htop : (if r.getLsbD (w - 1) then (X : (ZMod 2)[X]) ^ w else 0).coeff i
      = if i = w ∧ r.getLsbD (w - 1) then 1 else 0 := by
    by_cases hr : r.getLsbD (w - 1) <;> simp [hr, coeff_X_pow]
  rw [coeff_add, htop, bitPoly_coeff, BitVec.getLsbD_shiftLeft]
  cases i with
  | zero => simp [hw.ne]
  | succ i =>
    rw [coeff_mul_X, bitPoly_coeff]
    rcases lt_trichotomy (i + 1) w with hlt | rfl | hgt
    · simp [hlt, hlt.ne]
    · rw [Nat.add_sub_cancel]
      cases r.getLsbD i <;> simp [CharTwo.add_self_eq_zero]
    · simp [hgt.ne', Nat.not_lt.2 hgt.le, BitVec.getLsbD_of_ge r i (by omega)]

@[simp] theorem messagePoly_nil : messagePoly [] = 0 := rfl

theorem messagePoly_concat (m : List Byte) (b : Byte) : messagePoly (m ++ [b]) = messagePoly m * X ^ 8 + bitPoly b := by
  simp [messagePoly]

/-- The last byte on the wire is the low byte of the word. -/
theorem wireBytes_succ (n : Nat) (v : BitVec (8 * n + 8)) :
    wireBytes (n + 1) v = wireBytes n (v.extractLsb' 8 (8 * n)) ++ [v.extractLsb' 0 8] := by
  have hhigh : ∀ i ∈ List.range n, v.extractLsb' (8 * (n + 1 - 1 - i)) 8
      = (v.extractLsb' 8 (8 * n)).extractLsb' (8 * (n - 1 - i)) 8 := by
    intro i hi
    have hi := List.mem_range.1 hi
    apply BitVec.eq_of_getLsbD_eq
    intro j hj
    have hplace : 8 * (n + 1 - 1 - i) + j = 8 + (8 * (n - 1 - i) + j) := by omega
    have hinside : 8 * (n - 1 - i) + j < 8 * n := by omega
    simp only [BitVec.getLsbD_extractLsb', hplace, hinside, decide_true, Bool.true_and]
  rw [wireBytes, List.range_succ, List.map_append, List.map_congr_left hhigh, List.map_singleton, Nat.add_sub_cancel,
    Nat.sub_self]
  rfl

/-- The message polynomial of a word's bytes on the wire is the word's polynomial (00_scope.md R11 (b)). -/
theorem messagePoly_wireBytes (n : Nat) (v : BitVec (8 * n)) : messagePoly (wireBytes n v) = bitPoly v := by
  induction n with
  | zero => rfl
  | succ n ih =>
    have hv := bitPoly_split (m := 8 * n) (k := 8) v
    rw [wireBytes_succ, messagePoly_concat, ih, hv]

/-! ## The shift register -/

/-- One round of the shift register with the generator `X ^ w + bitPoly g` (40_crc.md R130). -/
def crcRound {w : Nat} (g r : BitVec w) : BitVec w := if r.getLsbD (w - 1) then (r <<< 1) ^^^ g else r <<< 1

/-- One message byte through the shift register. -/
def crcFeed {w : Nat} (g r : BitVec w) (b : Byte) : BitVec w := (crcRound g)^[8] (r ^^^ (b.setWidth w <<< (w - 8)))

/-- The register `r` after a message, before the final XOR. -/
def crcRegister {w : Nat} (g r : BitVec w) (m : List Byte) : BitVec w := m.foldl (crcFeed g) r

theorem crc16Shift_eq_iterate (k : Nat) (r : BitVec 16) : crc16Shift k r = (crcRound crc16Poly)^[k] r := by
  induction k generalizing r with
  | zero => rfl
  | succ k ih => exact ih _

theorem crc32Shift_eq_iterate (g : Word) (k : Nat) (r : Word) : crc32Shift g k r = (crcRound g)^[k] r := by
  induction k generalizing r with
  | zero => rfl
  | succ k ih => exact ih _

/-- `crc16` is the register of width 16; its final XOR is 0 (40_crc.md R130). -/
theorem crc16_eq_crcRegister (m : List Byte) : crc16 m = crcRegister crc16Poly crc16Init m := by
  have hfeed : crc16Byte = crcFeed crc16Poly := funext₂ fun r b => crc16Shift_eq_iterate 8 _
  rw [crc16, hfeed]
  exact BitVec.xor_zero

/-- `crc32` is the register of width 32, with a final XOR (40_crc.md R133). -/
theorem crc32_eq_crcRegister (p : Config.Params) (m : List Byte) :
    crc32 p m = crcRegister p.crc32Poly p.crc32Init m ^^^ p.crc32XorOut := by
  have hfeed : crc32Byte p.crc32Poly = crcFeed p.crc32Poly := funext₂ fun r b => crc32Shift_eq_iterate _ 8 _
  rw [crc32, hfeed]
  rfl

theorem crcRegister_append {w : Nat} (g r : BitVec w) (m m' : List Byte) :
    crcRegister g r (m ++ m') = crcRegister g (crcRegister g r m) m' := List.foldl_append

/-! ## The register's class modulo the generator -/

/-- The generator of width `w`: `g` are its coefficients below `X ^ w`. -/
noncomputable def generator {w : Nat} (g : BitVec w) : (ZMod 2)[X] := X ^ w + bitPoly g

theorem generator_monic {w : Nat} (g : BitVec w) : (generator g).Monic := monic_X_pow_add (bitPoly_degree_lt g)

theorem generator_degree {w : Nat} (g : BitVec w) : (generator g).degree = w := by
  rw [generator, degree_add_eq_left_of_degree_lt] <;> simp [bitPoly_degree_lt]

/-- The class of a polynomial modulo the generator. -/
noncomputable abbrev crcClass {w : Nat} (g : BitVec w) : (ZMod 2)[X] →+* AdjoinRoot (generator g) :=
  AdjoinRoot.mk (generator g)

/-- A register is the remainder of every polynomial of its class. -/
theorem bitPoly_eq_modByMonic {w : Nat} {g v : BitVec w} {p : (ZMod 2)[X]} (h : crcClass g (bitPoly v) = crcClass g p) :
    bitPoly v = p %ₘ generator g := by
  have hself : bitPoly v %ₘ generator g = bitPoly v :=
    (modByMonic_eq_self_iff (generator_monic g)).2 (generator_degree g ▸ bitPoly_degree_lt v)
  rw [← hself]
  exact modByMonic_eq_of_dvd_sub (generator_monic g) (AdjoinRoot.mk_eq_mk.1 h)

/-- A register is determined by its class. -/
theorem crcClass_bitPoly_inj {w : Nat} {g u v : BitVec w} (h : crcClass g (bitPoly u) = crcClass g (bitPoly v)) :
    u = v :=
  bitPoly_injective ((bitPoly_eq_modByMonic h).trans (bitPoly_eq_modByMonic rfl).symm)

/-- A round multiplies by `X`, and takes the generator off when a bit leaves the register. -/
theorem bitPoly_crcRound {w : Nat} (hw : 0 < w) (g r : BitVec w) :
    bitPoly (crcRound g r) = bitPoly r * X + if r.getLsbD (w - 1) then generator g else 0 := by
  rw [crcRound, generator]
  split
  · rw [bitPoly_xor, bitPoly_shiftLeft_one hw, if_pos ‹_›, add_assoc]
  · rw [bitPoly_shiftLeft_one hw, if_neg ‹_›]

theorem crcClass_crcRound {w : Nat} (hw : 0 < w) (g r : BitVec w) :
    crcClass g (bitPoly (crcRound g r)) = crcClass g (bitPoly r * X) := by
  rw [bitPoly_crcRound hw, map_add]
  split
  · rw [AdjoinRoot.mk_self, add_zero]
  · rw [map_zero, add_zero]

theorem crcClass_iterate_crcRound {w : Nat} (hw : 0 < w) (g r : BitVec w) (k : Nat) :
    crcClass g (bitPoly ((crcRound g)^[k] r)) = crcClass g (bitPoly r * X ^ k) := by
  induction k with
  | zero => simp
  | succ k ih =>
    rw [Function.iterate_succ_apply', crcClass_crcRound hw, map_mul, ih, ← map_mul, mul_assoc, ← pow_succ]

/-- A byte is fed in at the top of the register, `X ^ 8` below the place it has in the message times `X ^ w`. -/
theorem crcClass_crcFeed {w : Nat} (hw : 8 ≤ w) (g r : BitVec w) (b : Byte) :
    crcClass g (bitPoly (crcFeed g r b)) = crcClass g (bitPoly r * X ^ 8 + bitPoly b * X ^ w) := by
  rw [crcFeed, crcClass_iterate_crcRound (by omega), bitPoly_xor, bitPoly_byte_shiftLeft hw, add_mul, mul_assoc,
    ← pow_add, Nat.sub_add_cancel hw]

/-- The register after a message is in the class of the preset and the message, in this order, times `X ^ w`. -/
theorem crcClass_crcRegister {w : Nat} (hw : 8 ≤ w) (g r : BitVec w) (m : List Byte) :
    crcClass g (bitPoly (crcRegister g r m)) =
      crcClass g (messagePoly m * X ^ w + bitPoly r * X ^ (8 * m.length)) := by
  induction m using List.reverseRecOn with
  | nil => simp [crcRegister]
  | append_singleton m b ih =>
    calc crcClass g (bitPoly (crcRegister g r (m ++ [b])))
        = crcClass g (bitPoly (crcFeed g (crcRegister g r m) b)) := by rw [crcRegister_append]; rfl
      _ = crcClass g ((messagePoly m * X ^ w + bitPoly r * X ^ (8 * m.length)) * X ^ 8 + bitPoly b * X ^ w) := by
        rw [crcClass_crcFeed hw, map_add, map_mul, ih, ← map_mul, ← map_add]
      _ = crcClass g (messagePoly (m ++ [b]) * X ^ w + bitPoly r * X ^ (8 * (m ++ [b]).length)) := by
        rw [messagePoly_concat, List.length_append, List.length_singleton, Nat.mul_add]
        ring_nf

/-- The remainder that the register holds (40_crc.md R130, R133). -/
theorem bitPoly_crcRegister {w : Nat} (hw : 8 ≤ w) (g r : BitVec w) (m : List Byte) :
    bitPoly (crcRegister g r m) =
      (messagePoly m * X ^ w + bitPoly r * X ^ (8 * m.length)) %ₘ generator g :=
  bitPoly_eq_modByMonic (crcClass_crcRegister hw g r m)

/-- A register fed with its own contents becomes 0 (40_crc.md R131, R134). -/
theorem crcRegister_wireBytes_self {n : Nat} (hn : 0 < n) (g r : BitVec (8 * n)) :
    crcRegister g r (wireBytes n r) = 0#(8 * n) := by
  have hself : bitPoly r * X ^ (8 * n) + bitPoly r * X ^ (8 * n) = 0 := CharTwo.add_self_eq_zero _
  apply crcClass_bitPoly_inj (g := g)
  rw [crcClass_crcRegister (by omega), messagePoly_wireBytes, wireBytes_length, hself, bitPoly_zero]

/-- A word as wide as the register counts as its difference from what the register holds. -/
theorem crcRegister_wireBytes_xor {n : Nat} (hn : 0 < n) (g r v : BitVec (8 * n)) :
    crcRegister g r (wireBytes n (r ^^^ v)) = crcRegister g 0#(8 * n) (wireBytes n v) := by
  have hself : bitPoly r + bitPoly r = 0 := CharTwo.add_self_eq_zero _
  have hsum : (bitPoly r + bitPoly v) * X ^ (8 * n) + bitPoly r * X ^ (8 * n) = bitPoly v * X ^ (8 * n) := by
    linear_combination X ^ (8 * n) * hself
  apply crcClass_bitPoly_inj (g := g)
  rw [crcClass_crcRegister (by omega), crcClass_crcRegister (by omega), messagePoly_wireBytes, messagePoly_wireBytes,
    wireBytes_length, wireBytes_length, bitPoly_xor, hsum, bitPoly_zero, zero_mul, add_zero]

end Sys2Proof.Machine
end

section
/-! PROOFS of the statements of 40_crc.md: the two CRC functions as polynomial remainders, their tables and residues,
and what the four CRC commands report. -/

namespace Sys2Proof.Machine

open Sys2Proof.Laws Sys2Proof.Claims Polynomial

/-! ## The remainders (R130, R133) -/

theorem bitPoly_crc16Poly : bitPoly crc16Poly = 1 + X ^ 5 + X ^ 12 := by
  simp [bitPoly, crc16Poly, Finset.sum_range_succ]

theorem bitPoly_default_crc32Poly :
    bitPoly Config.Params.defaults.crc32Poly = 1 + X ^ 2 + X ^ 11 + X ^ 21 + X ^ 23 := by
  simp [bitPoly, Config.Params.defaults, Finset.sum_range_succ]

/-- The CRC-16 generator as R130 writes it. -/
theorem generator_crc16Poly : generator crc16Poly = X ^ 16 + X ^ 12 + X ^ 5 + 1 := by
  rw [generator, bitPoly_crc16Poly]
  ring

/-- Settles O20: `crc16` is the register of width 16, and the register holds the remainder. -/
theorem crc16IsThePolynomialRemainder : Obligations.Crc16IsThePolynomialRemainder := by
  unfold Obligations.Crc16IsThePolynomialRemainder
  intro bytes
  rw [crc16_eq_crcRegister, bitPoly_crcRegister (by decide), generator_crc16Poly]
  rfl

/-- Settles O21: before its final XOR, `crc32` is the register of width 32, and the register holds the remainder. -/
theorem crc32IsThePolynomialRemainder : Obligations.Crc32IsThePolynomialRemainder := by
  unfold Obligations.Crc32IsThePolynomialRemainder
  refine ⟨⟨?_, rfl, rfl⟩, fun p bytes => ?_⟩
  · rw [bitPoly_default_crc32Poly]
    ring
  · rw [crc32_eq_crcRegister, BitVec.xor_assoc, BitVec.xor_self, BitVec.xor_zero, bitPoly_crcRegister (by decide),
      generator]

/-! ## The tables and the residues (R131, R134) -/

/-- Settles O22: the register is fed with its own contents. -/
theorem crc16TableAndResidue : Obligations.Crc16TableAndResidue := by
  unfold Obligations.Crc16TableAndResidue
  constructor
  · decide +kernel
  · intro m
    rw [crc16_eq_crcRegister, crcRegister_append, ← crc16_eq_crcRegister]
    exact crcRegister_wireBytes_self (n := 2) (by decide) crc16Poly (crc16 m)

/-- The CRC-32 of a message and its own CRC-32 does not depend on the message. -/
theorem crc32_residue (p : Config.Params) (m : List Byte) :
    crc32 p (m ++ wireBytes 4 (crc32 p m)) =
      crcRegister p.crc32Poly 0#32 (wireBytes 4 p.crc32XorOut) ^^^ p.crc32XorOut := by
  rw [crc32_eq_crcRegister, crcRegister_append, crc32_eq_crcRegister p m]
  exact congrArg (· ^^^ p.crc32XorOut) (crcRegister_wireBytes_xor (n := 4) (by decide) _ _ _)

/-- Settles O23: the constant is that of `crc32_residue`. -/
theorem crc32TableAndResidue : Obligations.Crc32TableAndResidue := by
  unfold Obligations.Crc32TableAndResidue
  refine ⟨?_, fun p m hx => ?_, fun p => ⟨_, crc32_residue p⟩⟩
  · decide +kernel
  · rw [crc32_residue, hx, BitVec.xor_zero]
    exact crcRegister_wireBytes_self (n := 4) (by decide) p.crc32Poly 0#32

/-! ## The commands (R136 to R139) -/

/-- E_BOUNDS reports its code and its flag and counts nothing (60_exceptions.md R220, R224). -/
theorem raise_bounds (s : State) :
    s.raise .bounds = { s with regs := { s.regs with
      status := { s.regs.status with err := 3#4, sub := 0#4 }
      errFlags := s.regs.errFlags ||| 0b0000100#7 } } := by
  have hcount : s.regs.cntCorrupt + Failure.count .bounds = s.regs.cntCorrupt := BitVec.add_zero _
  rw [State.raise, hcount]
  rfl

/-- `R_CRC` after a CRC-16: its upper 16 bits are 0 (10_state.md R39). -/
theorem setWidth_crc16 : (fun m => (crc16 m).setWidth 32) = fun m => 0#16 ++ crc16 m :=
  funext fun m => (toNat_eq_iff _ _).2 (by rw [toNat_zero_append, BitVec.toNat_setWidth_of_le (by decide)])

theorem exec_crc16 (s : State) : exec .crc16 s = .next (computeCrc (fun m => 0#16 ++ crc16 m) s) :=
  congrArg (fun f => Host.Outcome.next (computeCrc f s)) setWidth_crc16

theorem exec_crc32 (s : State) : exec .crc32 s = .next (computeCrc (crc32 s.params) s) := rfl

theorem exec_chk16 (s : State) : exec .chk16 s = .next (checkCrc (fun m => 0#16 ++ crc16 m) 2 s) :=
  congrArg (fun f => Host.Outcome.next (checkCrc f 2 s)) setWidth_crc16

theorem exec_chk32 (s : State) : exec .chk32 s = .next (checkCrc (crc32 s.params) 4 s) := rfl

/-- `computeCrc_cases` by the region: which ending a command that computes a CRC has. -/
theorem exec_of_computeCrc {i : Instr} {f : List Byte → Word} {s : State}
    (hexec : exec i s = .next (computeCrc f s)) :
    (s.base + s.length ≤ s.params.bufSize →
      exec i s = .next (s.setCrc (f (s.bytes s.base s.length)) 0#32).done) ∧
    (s.params.bufSize < s.base + s.length → exec i s = .next (s.raise .bounds)) := by
  rcases computeCrc_cases f s with ⟨hout, e⟩ | ⟨hin, e⟩ <;> rw [hexec, e]
  · exact ⟨fun h => absurd hout h.not_gt, fun _ => rfl⟩
  · exact ⟨fun _ => rfl, fun h => absurd hin h.not_ge⟩

/-- `checkCrc_cases` by the region, the field's length and the comparison: which ending a command that checks a CRC
has. -/
theorem exec_of_checkCrc {i : Instr} {f : List Byte → Word} {c : Nat} {s : State}
    (hexec : exec i s = .next (checkCrc f c s)) :
    let computed := f (s.bytes s.base (s.length - c))
    let received := BitVec.ofNat 32 (bigEndian (s.bytes (s.base + s.length - c) c))
    (s.params.bufSize < s.base + s.length → exec i s = .next (s.raise .bounds)) ∧
    (s.base + s.length ≤ s.params.bufSize → s.length < c → exec i s = .next (s.raise (.corrupt .length))) ∧
    (s.base + s.length ≤ s.params.bufSize → c ≤ s.length → computed ≠ received →
      exec i s = .next ((s.setCrc computed received).raise (.corrupt .crc))) ∧
    (s.base + s.length ≤ s.params.bufSize → c ≤ s.length → computed = received →
      exec i s = .next (s.setCrc computed received).done) := by
  rw [bigEndian_bytes]
  rcases checkCrc_cases f c s with ⟨hout, e⟩ | ⟨hin, hshort, e⟩ | ⟨hin, hlen, hne, e⟩ | ⟨hin, hlen, heq, e⟩ <;>
    rw [hexec, e]
  · exact ⟨fun _ => rfl, fun h => absurd hout h.not_gt, fun h => absurd hout h.not_gt, fun h => absurd hout h.not_gt⟩
  · exact ⟨fun h => absurd hin h.not_ge, fun _ _ => rfl, fun _ h => absurd hshort h.not_gt,
      fun _ h => absurd hshort h.not_gt⟩
  · exact ⟨fun h => absurd hin h.not_ge, fun _ h => absurd hlen h.not_ge, fun _ _ _ => rfl, fun _ _ h => absurd h hne⟩
  · exact ⟨fun h => absurd hin h.not_ge, fun _ h => absurd hlen h.not_ge, fun _ _ h => absurd heq h, fun _ _ _ => rfl⟩

/-- Settles O16: the two endings of `computeCrc`. -/
theorem crc16ReportsTheCrcOfTheRegion : Obligations.Crc16ReportsTheCrcOfTheRegion := by
  unfold Obligations.Crc16ReportsTheCrcOfTheRegion
  refine ⟨decode_eq_ok_iff.2 ⟨rfl, rfl⟩, fun s => ?_⟩
  rw [← raise_bounds]
  exact exec_of_computeCrc (exec_crc16 s)

/-- Settles O17: the two endings of `computeCrc`. -/
theorem crc32ReportsTheCrcOfTheRegion : Obligations.Crc32ReportsTheCrcOfTheRegion := by
  unfold Obligations.Crc32ReportsTheCrcOfTheRegion
  refine ⟨decode_eq_ok_iff.2 ⟨rfl, rfl⟩, fun s => ?_⟩
  rw [← raise_bounds]
  exact exec_of_computeCrc (exec_crc32 s)

/-- Settles O18: the four endings of `checkCrc`. -/
theorem chk16ComparesTheTrailingField : Obligations.Chk16ComparesTheTrailingField := by
  unfold Obligations.Chk16ComparesTheTrailingField
  refine ⟨decode_eq_ok_iff.2 ⟨rfl, rfl⟩, fun s => ?_⟩
  rw [← raise_bounds]
  exact exec_of_checkCrc (exec_chk16 s)

/-- Settles O19: the four endings of `checkCrc`. -/
theorem chk32ComparesTheTrailingField : Obligations.Chk32ComparesTheTrailingField := by
  unfold Obligations.Chk32ComparesTheTrailingField
  refine ⟨decode_eq_ok_iff.2 ⟨rfl, rfl⟩, fun s => ?_⟩
  rw [← raise_bounds]
  exact exec_of_checkCrc (exec_chk32 s)

end Sys2Proof.Machine
end

section
/-! PROOFS of the statements of 41_bigendian.md: what RDBE and WRBE read and write, and that each undoes the other. -/

namespace Sys2Proof.Machine

open Sys2Proof.Laws Sys2Proof.Claims

/-! ## The words of the two commands (R91, R94) -/

theorem encode_rdbe : ∀ n : BitVec 4, encode (.rdbe n) = 0x20000000#32 ||| n.setWidth 32 := by decide

theorem encode_wrbe : ∀ n : BitVec 4, encode (.wrbe n) = 0x21000000#32 ||| n.setWidth 32 := by decide

/-- A word of format `W` with a must-be-zero bit or an illegal width ends with E_ILLCMD. -/
theorem runCommand_of_illegalWidth {w : Word} (hop : w.toNat / 2 ^ 24 ∈ [0x20, 0x21])
    (hw : w.toNat % 2 ^ 24 / 2 ^ 4 ≠ 0 ∨ w.toNat % 2 ^ 4 = 0 ∨ 9 ≤ w.toNat % 2 ^ 4) (s : State) :
    runCommand w s = .next (afterIllegalWord s) := by
  have hlow : w.toNat % 2 ^ 24 % 2 ^ 4 = w.toNat % 2 ^ 4 := Nat.mod_mod_of_dvd _ (by decide)
  have hill : IllegalWord w := .inr (.inr (.inl ⟨hop, hlow.symm ▸ hw⟩))
  rw [runCommand_of_illegalWord hill, raise_illCmd]

/-! ## `VAL` and its two halves (10_state.md R31) -/

/-- The state with `VAL = v`, for `v` below 2^64. -/
def State.setVal (s : State) (v : Nat) : State :=
  { s with regs := { s.regs with valLo := BitVec.ofNat 32 (v % 2 ^ 32), valHi := BitVec.ofNat 32 (v / 2 ^ 32) } }

@[simp] theorem setVal_base (s : State) (v : Nat) : (s.setVal v).base = s.base := rfl
@[simp] theorem setVal_params (s : State) (v : Nat) : (s.setVal v).params = s.params := rfl

@[simp] theorem setVal_memRead (s : State) (v a n : Nat) : (s.setVal v).memRead a n = s.memRead a n :=
  memRead_congr fun _ _ => rfl

theorem setVal_val (s : State) {v : Nat} (h : v < 2 ^ 64) : (s.setVal v).val = v := by
  simp only [State.setVal, State.val, BitVec.toNat_ofNat]
  omega

/-- `VAL` determines both halves. -/
theorem setVal_val_self (s t : State) :
    (t.setVal s.val).regs.valHi = s.regs.valHi ∧ (t.setVal s.val).regs.valLo = s.regs.valLo := by
  have hlo := s.regs.valLo.isLt
  have hhi := s.regs.valHi.isLt
  simp only [State.setVal, State.val, toNat_eq_iff, BitVec.toNat_ofNat]
  omega

/-- A value of at most eight bytes fits `VAL`. -/
theorem memRead_lt_val {n : Nat} (hn : n ≤ 8) (s : State) (a : Nat) : s.memRead a n < 2 ^ 64 :=
  (memRead_lt s a n).trans_le (Nat.pow_le_pow_right (by decide) (by omega))

/-! ## `MemRead` and `MemWrite` on the same range (00_scope.md R12) -/

@[simp] theorem done_base (s : State) : s.done.base = s.base := rfl

@[simp] theorem memWrite_base (s : State) (a n v : Nat) : (s.memWrite a n v).base = s.base := by
  rw [State.base, memWrite_regs, State.base]

@[simp] theorem done_memRead (s : State) (a n : Nat) : s.done.memRead a n = s.memRead a n :=
  memRead_congr fun _ _ => rfl

/-- A byte of a value as the spec writes it (R151). -/
theorem ofNat_shiftRight_eq_div_mod (v k : Nat) : BitVec.ofNat 8 (v >>> k) = BitVec.ofNat 8 (v / 2 ^ k % 256) :=
  (toNat_eq_iff _ _).2 (by rw [Nat.shiftRight_eq_div_pow, BitVec.toNat_ofNat, BitVec.toNat_ofNat, Nat.mod_mod])

/-- Reading what was written gives the low bytes of the value. -/
theorem memRead_memWrite {s : State} {a n : Nat} (h : a + n ≤ s.params.bufSize) (v : Nat) :
    (s.memWrite a n v).memRead a n = v % 2 ^ (8 * n) := by
  refine memRead_of_bytes _ a n v fun i hi => ?_
  rw [byteAt_memWrite s a n v _ h, if_pos (by omega), Nat.add_sub_cancel_left]

/-- Writing what was read leaves every byte. -/
theorem byteAt_memWrite_of_memRead {s : State} {a n v : Nat} (h : a + n ≤ s.params.bufSize)
    (hv : s.memRead a n = v) (b : Nat) : (s.memWrite a n v).byteAt b = s.byteAt b := by
  rw [byteAt_memWrite s a n v b h, ← hv]
  by_cases hb : a ≤ b ∧ b < a + n
  · rw [if_pos hb, byte_of_memRead s a n (b - a) (by omega), Nat.add_sub_cancel' hb.1]
  · rw [if_neg hb]

/-! ## What the two commands do with a legal width (R150, R151) -/

/-- `execRdbe_cases` by the range: `VAL` becomes the integer read, or E_BOUNDS. -/
theorem exec_rdbe {n : BitVec 4} (hn : legalWidth n) (s : State) :
    (s.base + n.toNat ≤ s.params.bufSize →
      exec (.rdbe n) s = .next (s.setVal (s.memRead s.base n.toNat)).done) ∧
    (s.params.bufSize < s.base + n.toNat → exec (.rdbe n) s = .next (s.raise .bounds)) := by
  rcases execRdbe_cases n s with ⟨hbad, -⟩ | ⟨-, hout, e⟩ | ⟨-, hin, e⟩
  · exact absurd hn hbad
  · exact ⟨fun h => absurd hout h.not_gt, fun _ => e⟩
  · have hlo (v : Nat) : BitVec.ofNat 32 (v % 2 ^ 32) = BitVec.ofNat 32 v :=
      (toNat_eq_iff _ _).2 (by simp only [BitVec.toNat_ofNat, Nat.mod_mod])
    refine ⟨fun _ => ?_, fun h => absurd hin h.not_ge⟩
    rw [State.setVal, hlo, ← Nat.shiftRight_eq_div_pow]
    exact e

/-- `execWrbe_cases` by the range: the low bytes of `VAL` are written, or E_BOUNDS. -/
theorem exec_wrbe {n : BitVec 4} (hn : legalWidth n) (s : State) :
    (s.base + n.toNat ≤ s.params.bufSize →
      exec (.wrbe n) s = .next (s.memWrite s.base n.toNat s.val).done) ∧
    (s.params.bufSize < s.base + n.toNat → exec (.wrbe n) s = .next (s.raise .bounds)) := by
  rcases execWrbe_cases n s with ⟨hbad, -⟩ | ⟨-, hout, e⟩ | ⟨-, hin, e⟩
  · exact absurd hn hbad
  · exact ⟨fun h => absurd hout h.not_gt, fun _ => e⟩
  · exact ⟨fun _ => e, fun h => absurd hin h.not_ge⟩

/-- Settles O24: `MemRead` is the big-endian integer of the bytes it reads. -/
theorem rdbeReadsTheBigEndianInteger : Obligations.RdbeReadsTheBigEndianInteger := by
  unfold Obligations.RdbeReadsTheBigEndianInteger
  refine ⟨fun n h1 h8 => decode_eq_ok_iff.2 ⟨decide_eq_true ⟨h1, h8⟩, encode_rdbe n⟩,
    fun s w hop hw => runCommand_of_illegalWidth (by rw [hop]; decide) hw s, fun s n => ?_⟩
  intro o v
  have hv : v = s.memRead s.base n.toNat := bigEndian_bytes s s.base n.toNat
  rw [← raise_bounds, hv]
  exact ⟨fun h1 h8 => (exec_rdbe ⟨h1, h8⟩ s).1, fun h1 h8 => (exec_rdbe ⟨h1, h8⟩ s).2⟩

/-- Settles O25: `MemWrite` writes its range and nothing else. -/
theorem wrbeWritesTheLowBytesBigEndian : Obligations.WrbeWritesTheLowBytesBigEndian := by
  unfold Obligations.WrbeWritesTheLowBytesBigEndian
  refine ⟨fun n h1 h8 => decode_eq_ok_iff.2 ⟨decide_eq_true ⟨h1, h8⟩, encode_wrbe n⟩,
    fun s w hop hw => runCommand_of_illegalWidth (by rw [hop]; decide) hw s, fun s n => ?_⟩
  rw [← raise_bounds]
  refine ⟨fun h1 h8 hin => ⟨_, (exec_wrbe ⟨h1, h8⟩ s).1 hin, fun a => ?_, ?_⟩, fun h1 h8 => (exec_wrbe ⟨h1, h8⟩ s).2⟩
  · rw [done_byteAt, byteAt_memWrite s s.base _ _ _ hin, ofNat_shiftRight_eq_div_mod]
    rfl
  · simp [State.done]

/-! ## Each undoes the other (R152) -/

/-- WRBE and then RDBE (R152): the second command reads the bytes the first has written. -/
theorem wrbe_then_rdbe {n : BitVec 4} (hn : legalWidth n) {s : State} (hin : s.base + n.toNat ≤ s.params.bufSize)
    (hval : s.val < 2 ^ (8 * n.toNat)) :
    ∃ t u, exec (.wrbe n) s = .next t ∧ exec (.rdbe n) t = .next u ∧
      u.regs.valHi = s.regs.valHi ∧ u.regs.valLo = s.regs.valLo := by
  refine ⟨_, _, (exec_wrbe hn s).1 hin, (exec_rdbe hn _).1 (by simpa using hin), ?_⟩
  have hread : (s.memWrite s.base n.toNat s.val).memRead s.base n.toNat = s.val :=
    (memRead_memWrite hin s.val).trans (Nat.mod_eq_of_lt hval)
  rw [done_memRead, done_base, memWrite_base, hread]
  exact setVal_val_self s _

/-- RDBE and then WRBE (R152): the second command writes the integer the first has read. -/
theorem rdbe_then_wrbe {n : BitVec 4} (hn : legalWidth n) {s : State} (hin : s.base + n.toNat ≤ s.params.bufSize) :
    ∃ t u, exec (.rdbe n) s = .next t ∧ exec (.wrbe n) t = .next u ∧ ∀ a, u.byteAt a = s.byteAt a := by
  refine ⟨_, _, (exec_rdbe hn s).1 hin, (exec_wrbe hn _).1 (by simpa using hin), fun a => ?_⟩
  have hval : (s.setVal (s.memRead s.base n.toNat)).done.val = s.memRead s.base n.toNat :=
    setVal_val s (memRead_lt_val hn.2 s s.base)
  rw [hval, done_byteAt, done_base, setVal_base]
  exact byteAt_memWrite_of_memRead (by simpa using hin) (by simp) a

/-- Settles O27: the two round trips. -/
theorem bigEndianRoundTrip : Obligations.BigEndianRoundTrip := by
  unfold Obligations.BigEndianRoundTrip
  intro s n h1 h8 hin
  exact ⟨wrbe_then_rdbe ⟨h1, h8⟩ hin, rdbe_then_wrbe ⟨h1, h8⟩ hin⟩

end Sys2Proof.Machine
end

section
/-! PROOFS of the statements of 42_parse.md about completions: what a parse command that fails leaves, who writes the
result registers, and which check ends each parse command. -/

namespace Sys2Proof.Machine

open Sys2Proof.Laws Sys2Proof.Claims

/-! ## Who writes the result registers (10_state.md R45) -/

/-- 40_crc.md R140, 42_parse.md R186: `R_CRC` and `R_CRCRX` belong to the parse commands, the CRC commands and SRST. -/
theorem exec_keeps_crcs {i : Instr} {s t : State} (h : exec i s = .next t)
    (hi : i ∉ [.ptm, .paos, .puslp, .srst, .crc16, .crc32, .chk16, .chk32]) :
    t.regs.rCrc = s.regs.rCrc ∧ t.regs.rCrcRx = s.regs.rCrcRx := by
  cases exec_completes h with
  | srst => simp at hi
  | parseFailed _ _ hp | parsed _ _ hp | crcDone _ _ _ hp | crcMismatch _ _ _ hp => simp_all
  | _ => simp

/-- Settles O47: the frames of the parse results, of the CRC results and of the descriptor. -/
theorem resultRegistersAreWrittenByTheirCommandsOnly : Obligations.ResultRegistersAreWrittenByTheirCommandsOnly := by
  unfold Obligations.ResultRegistersAreWrittenByTheirCommandsOnly
  intro i s t h
  exact ⟨fun hi => (exec_keeps_results h hi).2, exec_keeps_crcs h, fun hmk hs => (exec_keeps_descriptor h hmk hs).2⟩

/-! ## After an error (R160) -/

/-- What each of the three parse commands computes. -/
def parseOf : Instr → State → Except Failure Parsed
  | .paos => aosParse
  | .puslp => uslpParse
  | _ => tmParse

theorem exec_parse {i : Instr} (hi : i = .ptm ∨ i = .paos ∨ i = .puslp) (s : State) :
    exec i s = .next (s.finishParse (parseOf i s)) := by
  rcases hi with rfl | rfl | rfl <;> rfl

/-- The offsets 0x30 to 0x68 hold the parse result registers. -/
theorem regAt_results : ∀ f : BitVec 6, 0x30 ≤ 4 * f.toNat → 4 * f.toNat ≤ 0x68 →
    regAt f ∈ [some .rScid, some .rVcid, some .rMapid, some .rFlags, some .rSeqLo, some .rSeqHi, some .rSeqw,
      some .rMcfc, some .rOcf, some .rDstart, some .rDend, some .rFhp, some .rFlen, some .rCrc, some .rCrcRx] := by
  decide

/-- A cleared parse result register reads 0 (R160). -/
theorem regRead_of_cleared {t : State} (hr : t.regs.result = ParseResult.zero) (hc : t.regs.rCrc = 0#32)
    (hx : t.regs.rCrcRx = 0#32) {f : BitVec 6} (hlo : 0x30 ≤ 4 * f.toNat) (hhi : 4 * f.toNat ≤ 0x68) :
    t.regRead f = 0#32 := by
  have hf := regAt_results f hlo hhi
  simp only [List.mem_cons, List.not_mem_nil, or_false] at hf
  rcases hf with h | h | h | h | h | h | h | h | h | h | h | h | h | h | h <;>
    simp only [regRead_of_regAt h, Reg.read, hr, hc, hx] <;> rfl

/-- Settles O28, by the two endings of a parse command. -/
theorem parseErrorsLeaveNoPartialResult : Obligations.ParseErrorsLeaveNoPartialResult := by
  unfold Obligations.ParseErrorsLeaveNoPartialResult
  refine ⟨fun s w hw => ⟨_, runCommand_of_illegalWord hw s, rfl, rfl, rfl, rfl⟩, fun s i hi => ⟨_, exec_parse hi s, ?_⟩⟩
  rcases finishParse_cases s (parseOf i s) with ⟨e, -, he⟩ | ⟨p, -, he⟩ <;> rw [he]
  · exact ⟨fun _ => ⟨rfl, rfl, rfl, rfl, fun _ => regRead_of_cleared rfl rfl rfl⟩,
      fun h => absurd h e.code_ne_zero, rfl⟩
  · exact ⟨fun h => absurd rfl h, fun _ => rfl, rfl⟩

/-! ## Which check ends a parse command (R165) -/

/-- `ERR` and `SUB` that a parse command reports. -/
def parseCodes : Except Failure Parsed → BitVec 4 × BitVec 4
  | .error e => (e.code, e.sub)
  | .ok _ => (0#4, 0#4)

theorem endsWith_of_parse {i : Instr} (hi : i = .ptm ∨ i = .paos ∨ i = .puslp) {s : State}
    {codes : BitVec 4 × BitVec 4} (h : parseCodes (parseOf i s) = codes) : EndsWith i s codes.1 codes.2 := by
  refine ⟨_, exec_parse hi s, ?_⟩
  rw [← h]
  rcases finishParse_cases s (parseOf i s) with ⟨e, hr, he⟩ | ⟨p, hr, he⟩ <;> rw [he, hr] <;> exact ⟨rfl, rfl⟩

/-- A check in front decides, or the rest does. -/
theorem parseCodes_check {c : Prop} [Decidable c] (e : Failure) (x : Except Failure Parsed) :
    parseCodes (if c then .error e else x) = if c then (e.code, e.sub) else parseCodes x :=
  apply_ite parseCodes c _ _

/-! ### The error-detection mode (R161) and the CRC step (R162) -/

theorem errDetOf_eq_none {ed : BitVec 2} : errDetOf ed = none ↔ ed = 3#2 := by
  revert ed
  decide

theorem errDetOf_eq_some {ed : BitVec 2} {m : ErrDet} (h : errDetOf ed = some m) :
    ed = 0#2 ∧ m = .none ∨ ed = 1#2 ∧ m = .crc16 ∨ ed = 2#2 ∧ m = .crc32 := by
  revert ed
  cases m <;> decide

theorem fieldLength_eq_crcLength {ed : BitVec 2} {m : ErrDet} (h : errDetOf ed = some m) :
    m.fieldLength = crcLength ed := by
  rcases errDetOf_eq_some h with ⟨rfl, rfl⟩ | ⟨rfl, rfl⟩ | ⟨rfl, rfl⟩ <;> rfl

theorem fieldLength_le (m : ErrDet) : m.fieldLength ≤ 4 := by
  cases m <;> decide

theorem detectionCrc_toNat {ed : BitVec 2} {m : ErrDet} (h : errDetOf ed = some m) (s : State) (o n : Nat) :
    (detectionCrc s.params (s.bytes o n) m).toNat = selectedCrc s ed o n := by
  rcases errDetOf_eq_some h with ⟨rfl, rfl⟩ | ⟨rfl, rfl⟩ | ⟨rfl, rfl⟩
  · rfl
  · exact BitVec.toNat_setWidth_of_le (by decide)
  · rfl

/-- The CRC field fits a register. -/
theorem memRead_fieldLength_lt (s : State) (a : Nat) (m : ErrDet) : s.memRead a m.fieldLength < 2 ^ 32 :=
  (memRead_lt s a _).trans_le (Nat.pow_le_pow_right (by decide) (by have := fieldLength_le m; omega))

/-- `crcStep_cases` in the words of the claims. -/
theorem crcStep_of_errDetOf {s : State} {ed : BitVec 2} {m : ErrDet} (h : errDetOf ed = some m) (flen : Nat) :
    CrcMismatch s ed s.base flen ∧ crcStep s m flen = .error (.corrupt .crc) ∨
    ¬ CrcMismatch s ed s.base flen ∧ ∃ crcs, crcStep s m flen = .ok crcs := by
  have hfield (a : Nat) : (BitVec.ofNat 32 (s.memRead a m.fieldLength)).toNat = s.memRead a m.fieldLength :=
    Nat.mod_eq_of_lt (memRead_fieldLength_lt s a m)
  rw [CrcMismatch, bigEndian_bytes, ← fieldLength_eq_crcLength h, ← detectionCrc_toNat h, ← hfield, ne_eq,
    ← toNat_eq_iff]
  rcases crcStep_cases s m flen with ⟨hne, e⟩ | ⟨heq, e⟩
  · exact .inl ⟨hne, e⟩
  · exact .inr ⟨not_not.2 heq, _, e⟩

/-! ### The header fields as numbers (30_encoding.md R101 to R108) -/

theorem tmHeader_toNat (b : Nat → Byte) :
    (tmHeader b).version.toNat = (b 0).toNat / 64 ∧
    (tmHeader b).ocfp.toNat = (b 1).toNat % 2 ∧
    (tmHeader b).sechdr.toNat = ((b 4).toNat * 256 + (b 5).toNat) / 2 ^ 15 ∧
    (tmHeader b).fhp.toNat = ((b 4).toNat * 256 + (b 5).toNat) % 2 ^ 11 := by
  have hdfs : (b 4 ++ b 5).toNat = (b 4).toNat * 256 + (b 5).toNat := toNat_append_eq _ _
  have h0 := (b 0).isLt
  have h4 := (b 4).isLt
  have h5 := (b 5).isLt
  simp only [tmHeader, toNat_getLsbD, toNat_extract_eq]
  rw [hdfs]
  omega

theorem aosHeader_toNat (b : Nat → Byte) :
    (aosHeader b).version.toNat = (b 0).toNat / 64 ∧ (aosHeader b).vcid.toNat = (b 1).toNat % 64 := by
  have h0 := (b 0).isLt
  simp only [aosHeader, toNat_extract_eq]
  omega

theorem uslpHeader_toNat (b : Nat → Byte) :
    (uslpHeader b).version.toNat = (b 0).toNat / 16 ∧
    (uslpHeader b).vcid.toNat = (b 2).toNat % 8 * 8 + (b 3).toNat / 32 ∧
    (uslpHeader b).truncated.toNat = (b 3).toNat % 2 ∧
    (uslpHeader b).flenMinusOne.toNat = (b 4).toNat * 256 + (b 5).toNat ∧
    (uslpHeader b).ocfp.toNat = (b 6).toNat / 8 % 2 ∧
    (uslpHeader b).countLength.toNat = (b 6).toNat % 8 := by
  have h0 := (b 0).isLt
  have h3 := (b 3).isLt
  simp only [uslpHeader, toNat_getLsbD, toNat_append_eq, toNat_extract_eq]
  omega

/-- A flag as a condition and as a number. -/
theorem eq_true_iff_toNat (b : Bool) : b = true ↔ b.toNat = 1 := by
  cases b <;> simp

/-! ### PTM (R166, R167) -/

/-- The first header pointer is refused, or not. -/
theorem tmFhp_cases (fhp : BitVec 11) (dstart dend : Nat) :
    (fhp ≠ tmFhpNone ∧ fhp ≠ tmFhpIdle ∧ dstart + fhp.toNat ≥ dend) ∧
      tmFhp fhp dstart dend = .error (.corrupt .fhp) ∨
    ¬ (fhp ≠ tmFhpNone ∧ fhp ≠ tmFhpIdle ∧ dstart + fhp.toNat ≥ dend) ∧
      ∃ kind p idle, tmFhp fhp dstart dend = .ok (kind, p, idle) := by
  unfold tmFhp
  by_cases hn : fhp = tmFhpNone
  · exact .inr ⟨fun h => h.1 hn, _, _, _, if_pos hn⟩
  · rw [if_neg hn]
    by_cases hi : fhp = tmFhpIdle
    · exact .inr ⟨fun h => h.2.1 hi, _, _, _, if_pos hi⟩
    · rw [if_neg hi]
      by_cases hout : dstart + fhp.toNat ≥ dend
      · exact .inl ⟨⟨hn, hi, hout⟩, if_pos hout⟩
      · exact .inr ⟨fun h => hout h.2.2, _, _, _, if_neg hout⟩

theorem parseCodes_tmDataZone (s : State) (h : TmHeader) (n c : Nat) (crcs : Word × Word) :
    let dstart := 6 + tmSecondaryLength h.sechdr (s.frameByte 6)
    let dend := n - c - 4 * h.ocfp.toNat
    parseCodes (tmDataZone s h n c crcs) =
      if n < 6 + 4 * h.ocfp.toNat + c then (1, 1)
      else if h.sechdr = true ∧ 6 ≥ dend then (1, 1)
      else if dstart > dend then (1, 1)
      else if h.fhp ≠ tmFhpNone ∧ h.fhp ≠ tmFhpIdle ∧ dstart + h.fhp.toNat ≥ dend then (1, 4)
      else (0, 0) := by
  intro dstart dend
  simp only [tmDataZone, parseCodes_check]
  refine if_congr Iff.rfl rfl (if_congr Iff.rfl rfl (if_congr Iff.rfl rfl ?_))
  rcases tmFhp_cases h.fhp dstart dend with ⟨hbad, e⟩ | ⟨hgood, kind, p, idle, e⟩
  · rw [e, if_pos hbad]
    rfl
  · rw [e, if_neg hgood]
    rfl

theorem parseCodes_tmParse (s : State) : parseCodes (tmParse s) = ptmOutcome s := by
  cases hed : errDetOf s.regs.cfg.dlErrdet with
  | none => simp only [tmParse, ptmOutcome, hed, if_pos (errDetOf_eq_none.1 hed)]; rfl
  | some m =>
    have hne : s.regs.cfg.dlErrdet ≠ 3#2 := fun h => by simp [errDetOf_eq_none.2 h] at hed
    obtain ⟨hversion, hocfp, hsechdr, hfhp⟩ := tmHeader_toNat s.frameByte
    simp only [tmParse, ptmOutcome, hed, parseCodes_check, if_neg hne]
    rw [fieldLength_eq_crcLength hed]
    refine if_congr Iff.rfl rfl (if_congr Iff.rfl rfl (if_congr Iff.rfl rfl (if_congr Iff.rfl rfl
      (if_congr ?_ rfl ?_))))
    · rw [ne_eq, toNat_eq_iff, hversion]
      rfl
    · rcases crcStep_of_errDetOf (s := s) hed s.length with ⟨hbad, e⟩ | ⟨hgood, crcs, e⟩
      · rw [e]
        exact (if_pos hbad).symm
      · rw [e]
        refine Eq.trans ?_ (if_neg hgood).symm
        refine (parseCodes_tmDataZone _ _ _ _ _).trans ?_
        simp only [tmSecondaryLength, eq_true_iff_toNat, ne_eq, toNat_eq_iff, hocfp, hsechdr, hfhp]
        rfl

/-- Settles O29: PTM reports the codes of its first failing check. -/
theorem ptmReportsTheFirstFailingCheck : Obligations.PtmReportsTheFirstFailingCheck :=
  fun s => endsWith_of_parse (.inl rfl) (parseCodes_tmParse s)

/-! ### PAOS (R172, R173) -/

theorem parseCodes_aosDataZone (s : State) (h : AosHeader) (n c : Nat) (crcs : Word × Word) :
    parseCodes (aosDataZone s h n c crcs) =
      if h.vcid = idleVcid then (0, 0)
      else if n < aosHeaderLength s + 4 * s.regs.cfg.aosOcf.toNat + c then (1, 1)
      else (0, 0) := by
  rw [aosDataZone, apply_ite parseCodes, parseCodes_check]
  rfl

theorem parseCodes_aosParse (s : State) : parseCodes (aosParse s) = paosOutcome s := by
  cases hed : errDetOf s.regs.cfg.dlErrdet with
  | none => simp only [aosParse, paosOutcome, hed, if_pos (errDetOf_eq_none.1 hed)]; rfl
  | some m =>
    have hne : s.regs.cfg.dlErrdet ≠ 3#2 := fun h => by simp [errDetOf_eq_none.2 h] at hed
    obtain ⟨hversion, hvcid⟩ := aosHeader_toNat s.frameByte
    simp only [aosParse, paosOutcome, hed, parseCodes_check, if_neg hne]
    rw [fieldLength_eq_crcLength hed]
    refine if_congr Iff.rfl rfl (if_congr Iff.rfl rfl (if_congr Iff.rfl rfl (if_congr Iff.rfl rfl
      (if_congr ?_ rfl ?_))))
    · rw [ne_eq, toNat_eq_iff, hversion]
      rfl
    · rcases crcStep_of_errDetOf (s := s) hed s.length with ⟨hbad, e⟩ | ⟨hgood, crcs, e⟩
      · rw [e]
        exact (if_pos hbad).symm
      · rw [e]
        refine Eq.trans ?_ (if_neg hgood).symm
        refine (parseCodes_aosDataZone _ _ _ _ _).trans ?_
        simp only [toNat_eq_iff, hvcid]
        rfl

/-- Settles O30: PAOS reports the codes of its first failing check. -/
theorem paosReportsTheFirstFailingCheck : Obligations.PaosReportsTheFirstFailingCheck :=
  fun s => endsWith_of_parse (.inr (.inl rfl)) (parseCodes_aosParse s)

/-! ### PUSLP (R180 to R182) -/

theorem parseCodes_uslpDataZone (s : State) (h : UslpHeader) (flen c : Nat) (crcs : Word × Word) :
    parseCodes (uslpDataZone s h flen c crcs) =
      if h.vcid = idleVcid then (0, 0)
      else if flen < 7 + h.countLength.toNat + 4 * h.ocfp.toNat + c then (1, 1)
      else (0, 0) := by
  rw [uslpDataZone, apply_ite parseCodes, parseCodes_check]
  rfl

/-- R180: with a fixed length configured the declared length must be the region's, with none it must not exceed it. -/
theorem uslpFrameLength_cases (f n decl : Nat) :
    (f ≠ 0 ∧ decl ≠ n) ∧ uslpFrameLength f n decl = .error (.corrupt .length) ∨
    ¬ (f ≠ 0 ∧ decl ≠ n) ∧ (f = 0 ∧ decl > n) ∧ uslpFrameLength f n decl = .error (.corrupt .length) ∨
    ¬ (f ≠ 0 ∧ decl ≠ n) ∧ ¬ (f = 0 ∧ decl > n) ∧ uslpFrameLength f n decl = .ok (if f ≠ 0 then n else decl) := by
  unfold uslpFrameLength
  by_cases hf : f = 0
  · by_cases hlong : decl > n <;> simp [hf, hlong]
  · by_cases hne : decl ≠ n <;> simp [hf, hne]

theorem parseCodes_uslpParse (s : State) : parseCodes (uslpParse s) = puslpOutcome s := by
  cases hed : errDetOf s.regs.cfg.dlErrdet with
  | none => simp only [uslpParse, puslpOutcome, hed, if_pos (errDetOf_eq_none.1 hed)]; rfl
  | some m =>
    have hne : s.regs.cfg.dlErrdet ≠ 3#2 := fun h => by simp [errDetOf_eq_none.2 h] at hed
    obtain ⟨hversion, hvcid, htruncated, hflen, hocfp, hcount⟩ := uslpHeader_toNat s.frameByte
    simp only [uslpParse, puslpOutcome, hed, parseCodes_check, if_neg hne, hflen, eq_true_iff_toNat,
      htruncated]
    rw [fieldLength_eq_crcLength hed]
    refine if_congr Iff.rfl rfl (if_congr Iff.rfl rfl (if_congr Iff.rfl rfl (if_congr ?_ rfl (if_congr Iff.rfl rfl
      (if_congr Iff.rfl rfl ?_)))))
    · rw [ne_eq, toNat_eq_iff, hversion]
      rfl
    · rcases uslpFrameLength_cases s.regs.dlFramelen.toNat s.length
          ((s.frameByte 4).toNat * 256 + (s.frameByte 5).toNat + 1) with
        ⟨hfix, e⟩ | ⟨hfix, hany, e⟩ | ⟨hfix, hany, e⟩
      · rw [e]
        exact (if_pos hfix).symm
      · rw [e]
        exact ((if_neg hfix).trans (if_pos hany)).symm
      · rw [e]
        refine Eq.trans ?_ ((if_neg hfix).trans (if_neg hany)).symm
        refine (parseCodes_check _ _).trans (if_congr Iff.rfl rfl ?_)
        rcases crcStep_of_errDetOf (s := s) hed _ with ⟨hbad, e⟩ | ⟨hgood, crcs, e⟩
        · rw [e]
          exact (if_pos hbad).symm
        · rw [e]
          refine Eq.trans ?_ (if_neg hgood).symm
          refine (parseCodes_uslpDataZone _ _ _ _ _).trans ?_
          simp only [toNat_eq_iff, hvcid, hocfp, hcount]
          rfl

/-- Settles O31: PUSLP reports the codes of its first failing check. -/
theorem puslpReportsTheFirstFailingCheck : Obligations.PuslpReportsTheFirstFailingCheck :=
  fun s => endsWith_of_parse (.inr (.inr rfl)) (parseCodes_uslpParse s)

end Sys2Proof.Machine
end

section
/-! PROOF of the noninterference statement of 42_parse.md: a parse command reads its region, the configuration and the
CRC-32 parameters, and nothing else. -/

namespace Sys2Proof.Machine

open Sys2Proof.Laws Sys2Proof.Claims

/-- The two regions lie inside their buffers and hold the same bytes, under the same length, configuration and CRCs. -/
structure SameRegion (s t : State) : Prop where
  length : s.length = t.length
  cfg : s.regs.cfg = t.regs.cfg
  framelen : s.regs.dlFramelen = t.regs.dlFramelen
  insert : s.regs.aosInsert = t.regs.aosInsert
  crc : detectionCrc s.params = detectionCrc t.params
  insideLeft : ¬ s.outside s.base s.length
  insideRight : ¬ t.outside t.base s.length
  byte : ∀ i < s.length, s.frameByte i = t.frameByte i

/-- The CRCs depend on the CRC-32 parameters only (40_crc.md R130, R133). -/
theorem detectionCrc_congr {p q : Config.Params} (hpoly : p.crc32Poly = q.crc32Poly)
    (hinit : p.crc32Init = q.crc32Init) (hxor : p.crc32XorOut = q.crc32XorOut) : detectionCrc p = detectionCrc q := by
  funext bytes m
  cases m with
  | crc32 => simp only [detectionCrc, crc32, hpoly, hinit, hxor]
  | _ => rfl

/-- Equal byte sequences are equal byte by byte. -/
theorem frameByte_of_bytes_eq {s t : State} {n : Nat} (h : s.bytes s.base n = t.bytes t.base n) {i : Nat} (hi : i < n) :
    s.frameByte i = t.frameByte i := by
  have hs := bytes_getElem s s.base n i (by simpa using hi)
  have ht := bytes_getElem t t.base n i (by simpa using hi)
  rw [State.frameByte, State.frameByte, ← hs, ← ht]
  simp only [h]

/-! ## The headers read their own bytes only (30_encoding.md R101 to R108) -/

theorem tmHeader_congr {b b' : Nat → Byte} (h : ∀ i < 6, b i = b' i) : tmHeader b = tmHeader b' := by
  rw [tmHeader, tmHeader, h 0 (by decide), h 1 (by decide), h 2 (by decide), h 3 (by decide), h 4 (by decide),
    h 5 (by decide)]

theorem aosHeader_congr {b b' : Nat → Byte} (h : ∀ i < 6, b i = b' i) : aosHeader b = aosHeader b' := by
  rw [aosHeader, aosHeader, h 0 (by decide), h 1 (by decide), h 2 (by decide), h 3 (by decide), h 4 (by decide),
    h 5 (by decide)]

theorem uslpHeader_congr {b b' : Nat → Byte} (h : ∀ i < 7, b i = b' i) : uslpHeader b = uslpHeader b' := by
  rw [uslpHeader, uslpHeader, h 0 (by decide), h 1 (by decide), h 2 (by decide), h 3 (by decide), h 4 (by decide),
    h 5 (by decide), h 6 (by decide)]

/-- Four bytes tell the version and whether the frame is truncated (42_parse.md R181). -/
theorem uslpHeader_congr_four {b b' : Nat → Byte} (h : ∀ i < 4, b i = b' i) :
    (uslpHeader b).version = (uslpHeader b').version ∧ (uslpHeader b).truncated = (uslpHeader b').truncated := by
  simp only [uslpHeader, h 0 (by decide), h 3 (by decide), and_self]

namespace SameRegion

variable {s t : State} (h : SameRegion s t)

include h

/-! ## What a parse command reads -/

theorem bytes_eq {n : Nat} (hn : n ≤ s.length) : s.bytes s.base n = t.bytes t.base n :=
  bytes_congr fun i hi => h.byte i (by omega)

theorem memRead_eq {a n : Nat} (ha : a + n ≤ s.length) : s.memRead (s.base + a) n = t.memRead (t.base + a) n :=
  memRead_congr fun i hi => by simpa only [State.frameByte, Nat.add_assoc] using h.byte (a + i) (by omega)

theorem crcStep_eq {m : ErrDet} {flen : Nat} (hflen : flen ≤ s.length) (hfield : m.fieldLength ≤ flen) :
    crcStep s m flen = crcStep t m flen := by
  have hbody := h.bytes_eq (n := flen - m.fieldLength) (by omega)
  have hread := h.memRead_eq (a := flen - m.fieldLength) (n := m.fieldLength) (by omega)
  simp only [crcStep, Nat.add_sub_assoc hfield, hbody, hread, h.crc]

theorem ocfAt_eq {ocfp : Bool} {dend : Nat} (hend : dend + 4 * ocfp.toNat ≤ s.length) :
    ocfAt s ocfp dend = ocfAt t ocfp dend := by
  rw [ocfAt, ocfAt]
  refine ite_congr rfl (fun hocfp => ?_) fun _ => rfl
  rw [hocfp, Bool.toNat_true, Nat.mul_one] at hend
  rw [h.memRead_eq hend]

/-! ## The data zones -/

theorem tmDataZone_eq (g : TmHeader) (c : Nat) (crcs : Word × Word) :
    tmDataZone s g s.length c crcs = tmDataZone t g s.length c crcs := by
  simp only [tmDataZone]
  refine ite_congr rfl (fun _ => rfl) fun hlen => ite_congr rfl (fun _ => rfl) fun hsec => ?_
  have hsecondary : tmSecondaryLength g.sechdr (s.frameByte 6) = tmSecondaryLength g.sechdr (t.frameByte 6) := by
    cases hflag : g.sechdr with
    | false => rfl
    | true => rw [h.byte 6 (by simp [hflag] at hsec; omega)]
  rw [hsecondary, h.ocfAt_eq (by omega)]

theorem aosDataZone_eq (g : AosHeader) (c : Nat) (crcs : Word × Word) :
    aosDataZone s g s.length c crcs = aosDataZone t g s.length c crcs := by
  simp only [aosDataZone, aosHeaderLength, ← h.cfg, ← h.insert]
  refine ite_congr rfl (fun _ => rfl) fun _ => ite_congr rfl (fun _ => rfl) fun hlen => ?_
  rw [h.ocfAt_eq (by omega)]

theorem uslpDataZone_eq (g : UslpHeader) {flen : Nat} (hflen : flen ≤ s.length) (c : Nat) (crcs : Word × Word) :
    uslpDataZone s g flen c crcs = uslpDataZone t g flen c crcs := by
  simp only [uslpDataZone]
  refine ite_congr rfl (fun _ => rfl) fun _ => ite_congr rfl (fun _ => rfl) fun hlen => ?_
  rw [h.ocfAt_eq (by omega), h.memRead_eq (by omega)]

/-! ## The checks in their order (R166, R172, R182) -/

theorem tmParse_eq : tmParse s = tmParse t := by
  rw [tmParse, tmParse, ← h.cfg, ← h.framelen, ← h.length]
  cases errDetOf s.regs.cfg.dlErrdet with
  | none => rfl
  | some m =>
    simp only [if_neg h.insideLeft, if_neg h.insideRight]
    refine ite_congr rfl (fun _ => rfl) fun _ => ite_congr rfl (fun _ => rfl) fun _ =>
      ite_congr rfl (fun _ => rfl) fun hlen => ?_
    rw [tmHeader_congr fun i hi => h.byte i (by omega), h.crcStep_eq le_rfl (by omega)]
    refine ite_congr rfl (fun _ => rfl) fun _ => ?_
    cases crcStep t m s.length with
    | error e => rfl
    | ok crcs => exact h.tmDataZone_eq _ _ _

theorem aosParse_eq : aosParse s = aosParse t := by
  rw [aosParse, aosParse, ← h.cfg, ← h.framelen, ← h.length]
  cases errDetOf s.regs.cfg.dlErrdet with
  | none => rfl
  | some m =>
    simp only [if_neg h.insideLeft, if_neg h.insideRight]
    refine ite_congr rfl (fun _ => rfl) fun _ => ite_congr rfl (fun _ => rfl) fun _ =>
      ite_congr rfl (fun _ => rfl) fun hlen => ?_
    rw [aosHeader_congr fun i hi => h.byte i (by omega), h.crcStep_eq le_rfl (by omega)]
    refine ite_congr rfl (fun _ => rfl) fun _ => ?_
    cases crcStep t m s.length with
    | error e => rfl
    | ok crcs => exact h.aosDataZone_eq _ _ _

theorem uslpParse_eq : uslpParse s = uslpParse t := by
  rw [uslpParse, uslpParse, ← h.cfg, ← h.framelen, ← h.length]
  cases errDetOf s.regs.cfg.dlErrdet with
  | none => rfl
  | some m =>
    simp only [if_neg h.insideLeft, if_neg h.insideRight]
    refine ite_congr rfl (fun _ => rfl) fun _ => ite_congr rfl (fun _ => rfl) fun hfour => ?_
    obtain ⟨hversion, htruncated⟩ := uslpHeader_congr_four fun i hi => h.byte i (by omega)
    rw [hversion, htruncated]
    refine ite_congr rfl (fun _ => rfl) fun _ => ite_congr rfl (fun _ => rfl) fun _ =>
      ite_congr rfl (fun _ => rfl) fun hseven => ?_
    rw [uslpHeader_congr fun i hi => h.byte i (by omega)]
    cases hflen : uslpFrameLength s.regs.dlFramelen.toNat s.length
        ((uslpHeader t.frameByte).flenMinusOne.toNat + 1) with
    | error e => rfl
    | ok flen =>
      have hle := uslpFrameLength_le hflen
      refine ite_congr rfl (fun _ => rfl) fun hroom => ?_
      rw [h.crcStep_eq hle (by omega)]
      cases crcStep t m flen with
      | error e => rfl
      | ok crcs => exact h.uslpDataZone_eq _ hle _ _

theorem parseOf_eq (i : Instr) : parseOf i s = parseOf i t := by
  cases i with
  | paos => exact h.aosParse_eq
  | puslp => exact h.uslpParse_eq
  | _ => exact h.tmParse_eq

end SameRegion

/-- The same outcome of the checks gives the same report. -/
theorem finishParse_report (s t : State) (r : Except Failure Parsed) :
    (s.finishParse r).regs.status.err = (t.finishParse r).regs.status.err ∧
    (s.finishParse r).regs.status.sub = (t.finishParse r).regs.status.sub ∧
    (s.finishParse r).regs.status.rvalid = (t.finishParse r).regs.status.rvalid ∧
    (s.finishParse r).regs.result = (t.finishParse r).regs.result ∧
    (s.finishParse r).regs.rCrc = (t.finishParse r).regs.rCrc ∧
    (s.finishParse r).regs.rCrcRx = (t.finishParse r).regs.rCrcRx := by
  cases r <;> exact ⟨rfl, rfl, rfl, rfl, rfl, rfl⟩

/-- Settles O37: on the same region each parse command comes to the same outcome of its checks. -/
theorem parseOutcomeDependsOnTheRegionBytesOnly : Obligations.ParseOutcomeDependsOnTheRegionBytesOnly := by
  unfold Obligations.ParseOutcomeDependsOnTheRegionBytesOnly
  intro i s t hi hlen hcfg hframelen hinsert hpoly hinit hxor hin hin' hbytes
  have hbytes' : s.bytes s.base s.length = t.bytes t.base s.length := by
    simpa only [State.base, State.length, hlen] using hbytes
  have h : SameRegion s t :=
    { length := congrArg BitVec.toNat hlen
      cfg := hcfg
      framelen := hframelen
      insert := hinsert
      crc := detectionCrc_congr hpoly hinit hxor
      insideLeft := hin.not_gt
      insideRight := (hlen ▸ hin').not_gt
      byte := fun _ => frameByte_of_bytes_eq hbytes' }
  refine ⟨_, _, exec_parse hi s, exec_parse hi t, ?_⟩
  rw [h.parseOf_eq i]
  exact finishParse_report s t _

end Sys2Proof.Machine
end

section
/-! SUPPORT for the round trips of 42_parse.md R187: what the buffer holds where a frame laid out by the tables of
30_encoding.md lies, and the header fields read back from it. -/

namespace Sys2Proof.Machine

open Sys2Proof.Laws Sys2Proof.Claims

/-! ## Pieces of a known byte sequence -/

/-- Where the buffer holds a byte sequence it holds each piece of it. -/
theorem bytes_of_append {s : State} {a n : Nat} {x y z : List Byte} (h : s.bytes a n = x ++ y ++ z) :
    s.bytes (a + x.length) y.length = y := by
  have hn : n = x.length + y.length + z.length := by
    rw [← bytes_length s a n, h, List.length_append, List.length_append]
  rw [hn, bytes_append, bytes_append] at h
  obtain ⟨hxy, -⟩ := List.append_inj h (by simp)
  exact (List.append_inj hxy (by simp)).2

theorem memRead_of_append {s : State} {a n : Nat} {x y z : List Byte} (h : s.bytes a n = x ++ y ++ z) :
    s.memRead (a + x.length) y.length = bigEndian y := by
  rw [← bigEndian_bytes, bytes_of_append h]

theorem frameByte_of_append {s : State} {n : Nat} {x z : List Byte} {b : Byte}
    (h : s.bytes s.base n = x ++ b :: z) : s.frameByte x.length = b := by
  have hone : s.bytes (s.base + x.length) 1 = [b] := bytes_of_append (y := [b]) (z := z) (by simpa using h)
  exact List.head_eq_of_cons_eq hone

theorem frameByte_of_wireBytes {s : State} {n k i : Nat} {z : List Byte} {w : BitVec (8 * k)}
    (h : s.bytes s.base n = wireBytes k w ++ z) (hi : i < k) :
    s.frameByte i = w.extractLsb' (8 * (k - 1 - i)) 8 := by
  have hn : i < (s.bytes s.base n).length := by
    rw [h, List.length_append, wireBytes_length]
    omega
  have hbyte := bytes_getElem s s.base n i hn
  simp only [h] at hbyte
  rw [State.frameByte, ← hbyte, List.getElem_append_left (by simpa using hi)]
  simp [wireBytes]

theorem bigEndian_concat (l : List Byte) (b : Byte) : bigEndian (l ++ [b]) = bigEndian l * 256 + b.toNat := by
  simp [bigEndian]

/-- A word's bytes on the wire are its value, big-endian (20_memory.md R63). -/
theorem bigEndian_wireBytes (n : Nat) (v : BitVec (8 * n)) : bigEndian (wireBytes n v) = v.toNat := by
  induction n with
  | zero => simp [wireBytes, bigEndian, BitVec.of_length_zero]
  | succ n ih =>
    have hlt : v.toNat < 2 ^ (8 * n) * 2 ^ 8 := pow_add 2 (8 * n) 8 ▸ v.isLt
    have hhigh : v.toNat / 2 ^ 8 < 2 ^ (8 * n) := by omega
    rw [wireBytes_succ, bigEndian_concat, ih, toNat_extract_eq, toNat_extract_eq, Nat.mod_eq_of_lt hhigh]
    omega

/-! ## The CRC field and the OCF (30_encoding.md R111 to R113) -/

theorem crcField_length (p : Config.Params) (m : ErrDet) (body : List Byte) :
    (crcField p m body).length = m.fieldLength := by
  cases m with
  | none => rfl
  | crc16 => exact wireBytes_length 2 _
  | crc32 => exact wireBytes_length 4 _

theorem bigEndian_crcField (p : Config.Params) (m : ErrDet) (body : List Byte) :
    bigEndian (crcField p m body) = (detectionCrc p body m).toNat := by
  cases m with
  | none => rfl
  | crc16 => exact (bigEndian_wireBytes 2 _).trans (BitVec.toNat_setWidth_of_le (by decide)).symm
  | crc32 => exact bigEndian_wireBytes 4 _

theorem sealed_length (p : Config.Params) (m : ErrDet) (body : List Byte) :
    (sealed p m body).length = body.length + m.fieldLength := by
  rw [sealed, List.length_append, crcField_length]

/-- The CRC step passes on a frame with a correct CRC field and reports its CRC twice (42_parse.md R162). -/
theorem crcStep_of_sealed {s : State} {m : ErrDet} {body : List Byte}
    (h : s.bytes s.base (sealed s.params m body).length = sealed s.params m body) :
    crcStep s m (sealed s.params m body).length = .ok (detectionCrc s.params body m, detectionCrc s.params body m) := by
  have hframe : s.bytes s.base (sealed s.params m body).length = [] ++ body ++ crcField s.params m body := h
  have hbody : s.bytes s.base body.length = body := bytes_of_append hframe
  have hfield : s.memRead (s.base + body.length) m.fieldLength = (detectionCrc s.params body m).toNat := by
    rw [← crcField_length s.params m body, ← bigEndian_crcField]
    exact memRead_of_append (z := []) (by simpa using hframe)
  rw [sealed_length, crcStep, ← Nat.add_assoc, Nat.add_sub_cancel, Nat.add_sub_cancel, hbody, hfield,
    BitVec.ofNat_toNat, BitVec.setWidth_eq]
  exact if_neg (not_not.2 rfl)

theorem ocfField_length (ocfp : Bool) (ocf : Word) : (ocfField ocfp ocf).length = 4 * ocfp.toNat := by
  cases ocfp with
  | false => rfl
  | true => exact wireBytes_length 4 ocf

theorem ocfAt_of_append {s : State} {n : Nat} {x z : List Byte} {ocfp : Bool} {ocf : Word}
    (h : s.bytes s.base n = x ++ ocfField ocfp ocf ++ z) :
    ocfAt s ocfp x.length = if ocfp then ocf else 0#32 := by
  rw [ocfAt]
  refine ite_congr rfl (fun hocfp => ?_) fun _ => rfl
  subst hocfp
  have hread : s.memRead (s.base + x.length) 4 = bigEndian (wireBytes 4 ocf) := memRead_of_append h
  rw [hread, bigEndian_wireBytes, BitVec.ofNat_toNat, BitVec.setWidth_eq]

/-! ## Bits of bits, bits of a concatenation -/

theorem extractLsb'_extractLsb' {w start len start' len' : Nat} (x : BitVec w) (h : start + len ≤ len') :
    (x.extractLsb' start' len').extractLsb' start len = x.extractLsb' (start' + start) len := by
  apply BitVec.eq_of_getLsbD_eq
  intro i hi
  have hinside : start + i < len' := by omega
  simp only [BitVec.getLsbD_extractLsb', hinside, decide_true, Bool.true_and, Nat.add_assoc]

/-- Zero-extension to a register, as the claims write it. -/
theorem setWidth_eq_zero_append (m : Nat) {n : Nat} (x : BitVec n) : x.setWidth (m + n) = 0#m ++ x := by
  rw [toNat_eq_iff, toNat_zero_append, BitVec.toNat_setWidth_of_le (by omega)]

/-! ## The headers read back (30_encoding.md R101 to R108) -/

/-- The 48 bits of a TM primary header (30_encoding.md R101, R102). -/
def tmHeaderWord (h : TmHeader) (unnamed : BitVec 3) : BitVec (2 + 10 + 3 + 1 + 8 + 8 + 1 + 1 + 3 + 11) :=
  h.version ++ h.scid ++ h.vcid ++ BitVec.ofBool h.ocfp ++ h.mcfc ++ h.vcfc ++ BitVec.ofBool h.sechdr
    ++ BitVec.ofBool h.sync ++ unnamed ++ h.fhp

theorem tmHeaderBytes_eq (h : TmHeader) (unnamed : BitVec 3) :
    tmHeaderBytes h unnamed = wireBytes 6 (tmHeaderWord h unnamed) := rfl

/-- Each field is a piece of the six bytes taken together. -/
theorem tmHeader_of_word {n : Nat} {b : Nat → Byte} {w : BitVec n}
    (hb : ∀ i < 6, b i = w.extractLsb' (8 * (6 - 1 - i)) 8) :
    tmHeader b =
      { version := w.extractLsb' 46 2, scid := w.extractLsb' 36 10, vcid := w.extractLsb' 33 3
        ocfp := w.getLsbD 32, mcfc := w.extractLsb' 24 8, vcfc := w.extractLsb' 16 8
        sechdr := w.getLsbD 15, sync := w.getLsbD 14, fhp := w.extractLsb' 0 11 } := by
  rw [tmHeader, hb 0 (by decide), hb 1 (by decide), hb 2 (by decide), hb 3 (by decide), hb 4 (by decide),
    hb 5 (by decide)]
  simp (disch := decide) only [extractLsb'_extractLsb', BitVec.extractLsb'_append_extractLsb'_eq_extractLsb',
    BitVec.getLsbD_extractLsb', Nat.reduceMul, Nat.reduceSub, Nat.reduceLT, decide_true, Bool.true_and]
  rfl

theorem tmHeader_of_bytes {s : State} {n : Nat} {h : TmHeader} {unnamed : BitVec 3} {z : List Byte}
    (hbytes : s.bytes s.base n = tmHeaderBytes h unnamed ++ z) : tmHeader s.frameByte = h := by
  rw [tmHeaderBytes_eq] at hbytes
  rw [tmHeader_of_word (w := tmHeaderWord h unnamed) fun i hi => frameByte_of_wireBytes hbytes hi, tmHeaderWord]
  simp (disch := decide) only [BitVec.extractLsb'_append_eq_of_le, BitVec.extractLsb'_append_eq_of_add_le,
    BitVec.extractLsb'_eq_self, BitVec.getLsbD_append, BitVec.getLsbD_ofBool, Nat.reduceSub, Nat.reduceLT, if_true,
    if_false, decide_true, Bool.true_and]

/-- The 48 bits of an AOS primary header (30_encoding.md R104, R105). -/
def aosHeaderWord (h : AosHeader) (unnamed : BitVec 6) : BitVec (2 + 8 + 6 + 24 + 1 + 1 + 6) :=
  h.version ++ h.scid ++ h.vcid ++ h.vcfc ++ BitVec.ofBool h.replay ++ BitVec.ofBool h.usage ++ unnamed

theorem aosHeaderBytes_eq (h : AosHeader) (unnamed : BitVec 6) :
    aosHeaderBytes h unnamed = wireBytes 6 (aosHeaderWord h unnamed) := rfl

/-- Each field is a piece of the six bytes taken together. -/
theorem aosHeader_of_word {n : Nat} {b : Nat → Byte} {w : BitVec n}
    (hb : ∀ i < 6, b i = w.extractLsb' (8 * (6 - 1 - i)) 8) :
    aosHeader b =
      { version := w.extractLsb' 46 2, scid := w.extractLsb' 38 8, vcid := w.extractLsb' 32 6
        vcfc := w.extractLsb' 8 24, replay := w.getLsbD 7, usage := w.getLsbD 6 } := by
  rw [aosHeader, hb 0 (by decide), hb 1 (by decide), hb 2 (by decide), hb 3 (by decide), hb 4 (by decide),
    hb 5 (by decide)]
  simp (disch := decide) only [extractLsb'_extractLsb', BitVec.extractLsb'_append_extractLsb'_eq_extractLsb',
    BitVec.getLsbD_extractLsb', Nat.reduceMul, Nat.reduceSub, Nat.reduceLT, decide_true, Bool.true_and]

theorem aosHeader_of_bytes {s : State} {n : Nat} {h : AosHeader} {unnamed : BitVec 6} {z : List Byte}
    (hbytes : s.bytes s.base n = aosHeaderBytes h unnamed ++ z) : aosHeader s.frameByte = h := by
  rw [aosHeaderBytes_eq] at hbytes
  rw [aosHeader_of_word (w := aosHeaderWord h unnamed) fun i hi => frameByte_of_wireBytes hbytes hi, aosHeaderWord]
  simp (disch := decide) only [BitVec.extractLsb'_append_eq_of_le, BitVec.extractLsb'_append_eq_of_add_le,
    BitVec.extractLsb'_eq_self, BitVec.getLsbD_append, BitVec.getLsbD_ofBool, Nat.reduceSub, Nat.reduceLT, if_true,
    if_false, decide_true, Bool.true_and]

/-- The first 56 bits of a USLP primary header (30_encoding.md R107, R108). -/
def uslpHeaderWord (h : UslpHeader) (bit20 : BitVec 1) (unread : BitVec 4) :
    BitVec (4 + 16 + 1 + 6 + 4 + 1 + 16 + 4 + 1 + 3) :=
  h.version ++ h.scid ++ bit20 ++ h.vcid ++ h.mapid ++ BitVec.ofBool h.truncated ++ h.flenMinusOne ++ unread
    ++ BitVec.ofBool h.ocfp ++ h.countLength

theorem uslpHeaderBytes_eq (h : UslpHeader) (bit20 : BitVec 1) (unread : BitVec 4) :
    uslpHeaderBytes h bit20 unread = wireBytes 7 (uslpHeaderWord h bit20 unread) := rfl

/-- Each field is a piece of the seven bytes taken together. -/
theorem uslpHeader_of_word {n : Nat} {b : Nat → Byte} {w : BitVec n}
    (hb : ∀ i < 7, b i = w.extractLsb' (8 * (7 - 1 - i)) 8) :
    uslpHeader b =
      { version := w.extractLsb' 52 4, scid := w.extractLsb' 36 16, vcid := w.extractLsb' 29 6
        mapid := w.extractLsb' 25 4, truncated := w.getLsbD 24, flenMinusOne := w.extractLsb' 8 16
        ocfp := w.getLsbD 3, countLength := w.extractLsb' 0 3 } := by
  rw [uslpHeader, hb 0 (by decide), hb 1 (by decide), hb 2 (by decide), hb 3 (by decide), hb 4 (by decide),
    hb 5 (by decide), hb 6 (by decide)]
  simp (disch := decide) only [extractLsb'_extractLsb', BitVec.extractLsb'_append_extractLsb'_eq_extractLsb',
    BitVec.getLsbD_extractLsb', Nat.reduceMul, Nat.reduceSub, Nat.reduceLT, decide_true, Bool.true_and]

theorem uslpHeader_of_bytes {s : State} {n : Nat} {h : UslpHeader} {bit20 : BitVec 1} {unread : BitVec 4}
    {z : List Byte} (hbytes : s.bytes s.base n = uslpHeaderBytes h bit20 unread ++ z) :
    uslpHeader s.frameByte = h := by
  rw [uslpHeaderBytes_eq] at hbytes
  rw [uslpHeader_of_word (w := uslpHeaderWord h bit20 unread) fun i hi => frameByte_of_wireBytes hbytes hi,
    uslpHeaderWord]
  simp (disch := decide) only [BitVec.extractLsb'_append_eq_of_le, BitVec.extractLsb'_append_eq_of_add_le,
    BitVec.extractLsb'_eq_self, BitVec.getLsbD_append, BitVec.getLsbD_ofBool, Nat.reduceSub, Nat.reduceLT, if_true,
    if_false, decide_true, Bool.true_and]

end Sys2Proof.Machine
end

section
/-! PROOFS of the round trips of 42_parse.md R187: each parse command reports the fields of a frame laid out by the
tables of 30_encoding.md. -/

namespace Sys2Proof.Machine

open Sys2Proof.Laws Sys2Proof.Claims

/-- A successful parse as a record (R186). -/
theorem exec_of_parse_ok {i : Instr} (hi : i = .ptm ∨ i = .paos ∨ i = .puslp) {s : State} {p : Parsed}
    (h : parseOf i s = .ok p) :
    exec i s = .next { s with regs := { s.regs with
      status := { s.regs.status with err := 0#4, sub := 0#4, rvalid := true }
      rCrc := p.computed, rCrcRx := p.received, result := p.result } } := by
  rw [exec_parse hi, h]
  rfl

/-! ## TM (R166, R167) -/

/-- A frame that passes every check up to the CRC step. -/
theorem tmParse_of_intact {s : State} {m : ErrDet} {crcs : Word × Word}
    (hed : errDetOf s.regs.cfg.dlErrdet = some m) (hin : s.base + s.length ≤ s.params.bufSize)
    (hlen : s.length = s.regs.dlFramelen.toNat) (hroom : 6 + m.fieldLength ≤ s.length)
    (hversion : (tmHeader s.frameByte).version = verTm) (hcrc : crcStep s m s.length = .ok crcs) :
    tmParse s = tmDataZone s (tmHeader s.frameByte) s.length m.fieldLength crcs := by
  simp only [tmParse, hed, hcrc]
  rw [if_neg (by omega), if_neg (by omega), if_neg (not_not.2 hlen), if_neg (by omega), if_neg (not_not.2 hversion)]

/-- R103: the secondary header is as long as its first byte says. -/
theorem tmSecondaryLength_of_fits {sechdr : Bool} {sec : List Byte} (hfits : tmSecondaryFits sechdr sec = true)
    {b6 : Byte} (hb : ∀ b l, sec = b :: l → b6 = b) : tmSecondaryLength sechdr b6 = sec.length := by
  cases sec with
  | nil =>
    have hflag : sechdr = false := by simpa [tmSecondaryFits] using hfits
    rw [hflag]
    rfl
  | cons b l =>
    obtain ⟨hflag, hlen⟩ : sechdr = true ∧ (b :: l).length = b.toNat % 64 + 1 := by
      simpa [tmSecondaryFits] using hfits
    rw [hlen, hflag, hb b l rfl]
    rfl

/-- R167: a sentinel, or a pointer into the data zone. -/
theorem tmFhp_of_inside {fhp : BitVec 11} {dstart dend : Nat}
    (h : (fhp = 0x7FF#11 ∨ fhp = 0x7FE#11) ∨ dstart + fhp.toNat < dend) :
    tmFhp fhp dstart dend =
      .ok (if fhp = 0x7FF#11 then 2#2 else if fhp = 0x7FE#11 then 3#2 else 1#2,
        if fhp = 0x7FF#11 ∨ fhp = 0x7FE#11 then 0 else dstart + fhp.toNat, decide (fhp = 0x7FE#11)) := by
  rw [tmFhp, tmFhpNone, tmFhpIdle]
  by_cases hnone : fhp = 0x7FF#11
  · subst hnone
    rfl
  by_cases hidle : fhp = 0x7FE#11
  · subst hidle
    rfl
  have hin : dstart + fhp.toNat < dend := by simpa [hnone, hidle] using h
  simp [hnone, hidle, hin]

/-- What a TM frame reports whose zones and pointer are in order. -/
theorem tmDataZone_of_inside {s : State} {h : TmHeader} {n c dstart dend : Nat} {crcs : Word × Word}
    (hdstart : 6 + tmSecondaryLength h.sechdr (s.frameByte 6) = dstart) (hdend : n - c - 4 * h.ocfp.toNat = dend)
    (hroom : 6 + 4 * h.ocfp.toNat + c ≤ n) (hzone : dstart ≤ dend)
    (hfhp : (h.fhp = 0x7FF#11 ∨ h.fhp = 0x7FE#11) ∨ dstart + h.fhp.toNat < dend) :
    tmDataZone s h n c crcs = .ok
      { result :=
          { scid := h.scid.setWidth 16, vcid := h.vcid.setWidth 6, mapid := 0#4
            flags := { idle := decide (h.fhp = 0x7FE#11), ocfp := h.ocfp, sechdr := h.sechdr, sync := h.sync
                       replay := false, vcfcu := false
                       fhpk := if h.fhp = 0x7FF#11 then 2#2 else if h.fhp = 0x7FE#11 then 3#2 else 1#2
                       fmt := 1#2 }
            seqLo := h.vcfc.setWidth 32, seqHi := 0#24, seqw := 8#6, mcfc := h.mcfc
            ocf := ocfAt s h.ocfp dend
            dstart := BitVec.ofNat 17 dstart
            dend := BitVec.ofNat 17 dend
            fhp := BitVec.ofNat 17 (if h.fhp = 0x7FF#11 ∨ h.fhp = 0x7FE#11 then 0 else dstart + h.fhp.toNat)
            flen := BitVec.ofNat 17 n }
        computed := crcs.1, received := crcs.2 } := by
  have hsec : ¬ (h.sechdr = true ∧ 6 ≥ dend) := by
    rintro ⟨hflag, hshort⟩
    rw [hflag, tmSecondaryLength, if_pos rfl] at hdstart
    omega
  simp only [tmDataZone, hdstart, hdend, tmFhp_of_inside hfhp]
  rw [if_neg (by omega), if_neg hsec, if_neg (by omega)]
  rfl

/-- Settles O32: the header, the secondary header, the OCF and the CRC field are read back from their places. -/
theorem ptmReportsEveryFieldOfALaidOutFrame : Obligations.PtmReportsEveryFieldOfALaidOutFrame := by
  unfold Obligations.PtmReportsEveryFieldOfALaidOutFrame
  intro s m h unnamed sec data ocf body frame sentinel hed hversion hfits hfhp hframelen hlen hin hbytes
  have hparts : s.bytes s.base frame.length =
      tmHeaderBytes h unnamed ++ sec ++ data ++ ocfField h.ocfp ocf ++ crcField s.params m body := hbytes
  have hheaderLen : (tmHeaderBytes h unnamed).length = 6 := wireBytes_length 6 _
  have hsize : frame.length = 6 + sec.length + data.length + 4 * h.ocfp.toNat + m.fieldLength := by
    simp only [frame, body, sealed_length, tmBody, List.length_append, hheaderLen, ocfField_length]
  have hheader : tmHeader s.frameByte = h :=
    tmHeader_of_bytes (unnamed := unnamed) (by simpa only [List.append_assoc] using hparts)
  have hsecondary : tmSecondaryLength h.sechdr (s.frameByte 6) = sec.length :=
    tmSecondaryLength_of_fits hfits fun b l hsec => by
      rw [← hheaderLen]
      exact frameByte_of_append (by simpa only [hsec, List.append_assoc, List.cons_append] using hparts)
  have hocf : ocfAt s h.ocfp (6 + sec.length + data.length) = if h.ocfp then ocf else 0#32 := by
    simpa only [List.length_append, hheaderLen] using ocfAt_of_append hparts
  have hlength : s.length = frame.length := hlen
  have hintact := tmParse_of_intact hed (hlength ▸ hin) (hlength.trans hframelen.symm) (by omega)
    (hheader ▸ hversion) (hlength ▸ crcStep_of_sealed hbytes)
  have hzone := tmDataZone_of_inside (s := s) (h := h) (n := frame.length) (c := m.fieldLength)
    (crcs := (detectionCrc s.params body m, detectionCrc s.params body m))
    (congrArg (6 + ·) hsecondary) (dend := 6 + sec.length + data.length) (by omega) (by omega) (by omega)
    (hfhp.imp_right fun hin => by omega)
  have hscid : h.scid.setWidth 16 = 0#6 ++ h.scid := setWidth_eq_zero_append 6 h.scid
  have hvcid : h.vcid.setWidth 6 = 0#3 ++ h.vcid := setWidth_eq_zero_append 3 h.vcid
  have hvcfc : h.vcfc.setWidth 32 = 0#24 ++ h.vcfc := setWidth_eq_zero_append 24 h.vcfc
  rw [hheader, hlength, hzone, hocf, hscid, hvcid, hvcfc, apply_ite (BitVec.ofNat 17)] at hintact
  exact exec_of_parse_ok (.inl rfl) hintact

/-! ## AOS (R172, R173) -/

/-- A frame that passes every check up to the CRC step. -/
theorem aosParse_of_intact {s : State} {m : ErrDet} {crcs : Word × Word}
    (hed : errDetOf s.regs.cfg.dlErrdet = some m) (hin : s.base + s.length ≤ s.params.bufSize)
    (hlen : s.length = s.regs.dlFramelen.toNat) (hroom : 6 + m.fieldLength ≤ s.length)
    (hversion : (aosHeader s.frameByte).version = verAos) (hcrc : crcStep s m s.length = .ok crcs) :
    aosParse s = aosDataZone s (aosHeader s.frameByte) s.length m.fieldLength crcs := by
  simp only [aosParse, hed, hcrc]
  rw [if_neg (by omega), if_neg (by omega), if_neg (not_not.2 hlen), if_neg (by omega), if_neg (not_not.2 hversion)]

/-- R173: the data zone of a frame on virtual channel 63 is not looked at. -/
theorem aosDataZone_of_idle {h : AosHeader} (hvcid : h.vcid = idleVcid) (s : State) (n c : Nat) (crcs : Word × Word) :
    aosDataZone s h n c crcs = .ok (idleResult 2 (h.scid.setWidth 16) n crcs) :=
  if_pos hvcid

/-- Settles O33: the header, the OCF and the CRC field are read back from their places, past the skipped bytes. -/
theorem paosReportsEveryFieldOfALaidOutFrame : Obligations.PaosReportsEveryFieldOfALaidOutFrame := by
  unfold Obligations.PaosReportsEveryFieldOfALaidOutFrame
  intro s m h unnamed skipped data ocf ocfp body frame hed hversion hvcid hskipped hframelen hlen hin hbytes
  have hparts : s.bytes s.base frame.length =
      aosHeaderBytes h unnamed ++ skipped ++ data ++ ocfField ocfp ocf ++ crcField s.params m body := hbytes
  have hheaderLen : (aosHeaderBytes h unnamed).length = 6 := wireBytes_length 6 _
  have hsize : frame.length = 6 + skipped.length + data.length + 4 * ocfp.toNat + m.fieldLength := by
    simp only [frame, body, sealed_length, aosBody, List.length_append, hheaderLen, ocfField_length]
  have hheader : aosHeader s.frameByte = h :=
    aosHeader_of_bytes (unnamed := unnamed) (by simpa only [List.append_assoc] using hparts)
  have hocf : ocfAt s ocfp (6 + skipped.length + data.length) = if ocfp then ocf else 0#32 := by
    simpa only [List.length_append, hheaderLen] using ocfAt_of_append hparts
  have hhlen : aosHeaderLength s = 6 + skipped.length := by
    rw [aosHeaderLength, hskipped, Nat.add_assoc]
  have hdend : frame.length - m.fieldLength - 4 * ocfp.toNat = 6 + skipped.length + data.length := by omega
  have hlength : s.length = frame.length := hlen
  have hscid : h.scid.setWidth 16 = 0#8 ++ h.scid := setWidth_eq_zero_append 8 h.scid
  have hvcfc : h.vcfc.setWidth 32 = 0#8 ++ h.vcfc := setWidth_eq_zero_append 8 h.vcfc
  have hintact := aosParse_of_intact hed (hlength ▸ hin) (hlength.trans hframelen.symm) (by omega)
    (hheader ▸ hversion) (hlength ▸ crcStep_of_sealed hbytes)
  have hchannel : h.vcid ≠ idleVcid := hvcid
  have hocfp : s.regs.cfg.aosOcf = ocfp := rfl
  simp only [hheader, hlength, aosDataZone, hhlen, hocfp] at hintact
  rw [if_neg hchannel, if_neg (by omega), hdend, hocf, hscid, hvcfc] at hintact
  exact exec_of_parse_ok (.inr (.inl rfl)) hintact

/-- Settles O35: on virtual channel 63 the data zone is not looked at. -/
theorem paosReportsIdleFramesWithoutFurtherParsing : Obligations.PaosReportsIdleFramesWithoutFurtherParsing := by
  unfold Obligations.PaosReportsIdleFramesWithoutFurtherParsing
  intro s m h unnamed rest body frame hed hversion hvcid hframelen hlen hin hbytes
  have hparts : s.bytes s.base frame.length = aosHeaderBytes h unnamed ++ rest ++ crcField s.params m body := hbytes
  have hheaderLen : (aosHeaderBytes h unnamed).length = 6 := wireBytes_length 6 _
  have hsize : frame.length = 6 + rest.length + m.fieldLength := by
    simp only [frame, body, sealed_length, List.length_append, hheaderLen]
  have hheader : aosHeader s.frameByte = h :=
    aosHeader_of_bytes (unnamed := unnamed) (by simpa only [List.append_assoc] using hparts)
  have hlength : s.length = frame.length := hlen
  have hscid : h.scid.setWidth 16 = 0#8 ++ h.scid := setWidth_eq_zero_append 8 h.scid
  have hintact := aosParse_of_intact hed (hlength ▸ hin) (hlength.trans hframelen.symm) (by omega)
    (hheader ▸ hversion) (hlength ▸ crcStep_of_sealed hbytes)
  rw [hheader, hlength, aosDataZone_of_idle hvcid, hscid] at hintact
  exact exec_of_parse_ok (.inr (.inl rfl)) hintact

/-! ## USLP (R180 to R182, R173) -/

/-- R180: a frame of a fixed length fills its region, any other lies at its start. -/
theorem uslpFrameLength_of_fits {f n flen : Nat} (h : f = flen ∧ n = flen ∨ f = 0 ∧ flen ≤ n) :
    uslpFrameLength f n flen = .ok flen := by
  rw [uslpFrameLength]
  rcases h with ⟨rfl, rfl⟩ | ⟨rfl, hle⟩
  · by_cases hf : n = 0 <;> simp [hf]
  · simp [hle]

/-- A frame that passes every check up to the CRC step. -/
theorem uslpParse_of_intact {s : State} {m : ErrDet} {flen : Nat} {crcs : Word × Word}
    (hed : errDetOf s.regs.cfg.dlErrdet = some m) (hin : s.base + s.length ≤ s.params.bufSize)
    (hlen : s.regs.dlFramelen.toNat = flen ∧ s.length = flen ∨ s.regs.dlFramelen.toNat = 0 ∧ flen ≤ s.length)
    (hroom : 7 + m.fieldLength ≤ flen) (hversion : (uslpHeader s.frameByte).version = verUslp)
    (htruncated : (uslpHeader s.frameByte).truncated = false)
    (hdecl : (uslpHeader s.frameByte).flenMinusOne.toNat + 1 = flen) (hcrc : crcStep s m flen = .ok crcs) :
    uslpParse s = uslpDataZone s (uslpHeader s.frameByte) flen m.fieldLength crcs := by
  simp only [uslpParse, hed, hdecl, uslpFrameLength_of_fits hlen, hcrc]
  rw [if_neg (by omega), if_neg (by omega), if_neg (by omega), if_neg (not_not.2 hversion),
    if_neg (by simp [htruncated]), if_neg (by omega), if_neg (by omega)]

/-- R173: the data zone of a frame on virtual channel 63 is not looked at. -/
theorem uslpDataZone_of_idle {h : UslpHeader} (hvcid : h.vcid = idleVcid) (s : State) (flen c : Nat)
    (crcs : Word × Word) :
    uslpDataZone s h flen c crcs = .ok (idleResult 3 h.scid flen crcs) :=
  if_pos hvcid

/-- Settles O34: the header, the frame count, the OCF and the CRC field are read back from their places. -/
theorem puslpReportsEveryFieldOfALaidOutFrame : Obligations.PuslpReportsEveryFieldOfALaidOutFrame := by
  unfold Obligations.PuslpReportsEveryFieldOfALaidOutFrame
  intro s m h bit20 unread count data ocf body frame hed hversion htruncated hvcid hcount hdecl hlen hin hbytes
  have hparts : s.bytes s.base frame.length =
      uslpHeaderBytes h bit20 unread ++ count ++ data ++ ocfField h.ocfp ocf ++ crcField s.params m body := hbytes
  have hheaderLen : (uslpHeaderBytes h bit20 unread).length = 7 := wireBytes_length 7 _
  have hsize : frame.length = 7 + count.length + data.length + 4 * h.ocfp.toNat + m.fieldLength := by
    simp only [frame, body, sealed_length, uslpBody, List.length_append, hheaderLen, ocfField_length]
  have hheader : uslpHeader s.frameByte = h :=
    uslpHeader_of_bytes (bit20 := bit20) (unread := unread) (by simpa only [List.append_assoc] using hparts)
  have hseq : s.memRead (s.base + 7) count.length = bigEndian count := by
    rw [← hheaderLen]
    exact memRead_of_append (by simpa only [List.append_assoc] using hparts)
  have hocf : ocfAt s h.ocfp (7 + count.length + data.length) = if h.ocfp then ocf else 0#32 := by
    simpa only [List.length_append, hheaderLen] using ocfAt_of_append hparts
  have hdend : frame.length - m.fieldLength - 4 * h.ocfp.toNat = 7 + count.length + data.length := by omega
  have hlow : BitVec.ofNat 32 (bigEndian count) = BitVec.ofNat 32 (bigEndian count % 2 ^ 32) :=
    (toNat_eq_iff _ _).2 (by simp only [BitVec.toNat_ofNat, Nat.mod_mod])
  have hintact := uslpParse_of_intact hed hin hlen (by omega) (hheader ▸ hversion) (hheader ▸ htruncated)
    (hheader ▸ hdecl) (crcStep_of_sealed hbytes)
  have hchannel : h.vcid ≠ idleVcid := hvcid
  simp only [hheader, uslpDataZone, ← hcount] at hintact
  rw [if_neg hchannel, if_neg (by omega), hdend, hocf, hseq, Nat.shiftRight_eq_div_pow, hlow] at hintact
  exact exec_of_parse_ok (.inr (.inr rfl)) hintact

/-- Settles O36: on virtual channel 63 the data zone is not looked at. -/
theorem puslpReportsIdleFramesWithoutFurtherParsing : Obligations.PuslpReportsIdleFramesWithoutFurtherParsing := by
  unfold Obligations.PuslpReportsIdleFramesWithoutFurtherParsing
  intro s m h bit20 unread rest body frame hed hversion htruncated hvcid hdecl hlen hin hbytes
  have hparts : s.bytes s.base frame.length =
      uslpHeaderBytes h bit20 unread ++ rest ++ crcField s.params m body := hbytes
  have hheaderLen : (uslpHeaderBytes h bit20 unread).length = 7 := wireBytes_length 7 _
  have hsize : frame.length = 7 + rest.length + m.fieldLength := by
    simp only [frame, body, sealed_length, List.length_append, hheaderLen]
  have hheader : uslpHeader s.frameByte = h :=
    uslpHeader_of_bytes (bit20 := bit20) (unread := unread) (by simpa only [List.append_assoc] using hparts)
  have hintact := uslpParse_of_intact hed hin hlen (by omega) (hheader ▸ hversion) (hheader ▸ htruncated)
    (hheader ▸ hdecl) (crcStep_of_sealed hbytes)
  rw [hheader, uslpDataZone_of_idle hvcid] at hintact
  exact exec_of_parse_ok (.inr (.inr rfl)) hintact

end Sys2Proof.Machine
end

section
/-! PROOFS of the statements of 43_tcenc.md: the frame TCMK makes, the bytes TCENC writes, and that CHK16 accepts a
frame TCENC has encoded. -/

namespace Sys2Proof.Machine

open Sys2Proof.Laws Sys2Proof.Claims

/-! ## Errors without a sub-cause (60_exceptions.md R222, R224) -/

/-- An error other than E_CORRUPT reports its code and its flag and counts nothing. -/
theorem raise_of_not_corrupt {e : Failure} (he : e.code ≠ 1#4) (s : State) :
    s.raise e = { s with regs := { s.regs with
      status := { s.regs.status with err := e.code, sub := 0#4 }
      errFlags := s.regs.errFlags ||| e.sticky } } := by
  have hsub : e.sub = 0#4 := not_not.1 (mt e.sub_ne_zero_iff.1 he)
  have hcount : s.regs.cntCorrupt + e.count = s.regs.cntCorrupt := by
    rw [e.count_eq, if_neg he]
    exact BitVec.add_zero _
  rw [State.raise, hsub, hcount]

/-! ## Words laid down by `MemWrite` (00_scope.md R12) -/

/-- `MemWrite` of a word lays down its bytes in wire order. -/
theorem byteAt_memWrite_wireBytes {s : State} {a n : Nat} (h : a + n ≤ s.params.bufSize) (w : BitVec (8 * n)) (b : Nat) :
    (s.memWrite a n w.toNat).byteAt b =
      if a ≤ b ∧ b < a + n then (wireBytes n w).getD (b - a) 0#8 else s.byteAt b := by
  rw [byteAt_memWrite s a n _ b h]
  refine ite_congr rfl (fun hb => ?_) fun _ => rfl
  rw [wireBytes_getD n w _ (by omega)]
  rfl

/-! ## TCMK (R191) -/

/-- `execTcmk_cases` by the frame's length and range: which ending TCMK has. -/
theorem exec_tcmk (vcid : BitVec 6) (plen : BitVec 10) (s : State) :
    let flen := tcmkLength s plen
    (s.regs.tcCfg.maxlen.toNat < flen ∨ 1024 < flen →
      exec (.tcmk vcid plen) s = .next (s.tcInvalidate.raise .tooLong)) ∧
    (flen ≤ s.regs.tcCfg.maxlen.toNat → flen ≤ 1024 → s.params.bufSize < s.base + flen →
      exec (.tcmk vcid plen) s = .next (s.tcInvalidate.raise .bounds)) ∧
    (flen ≤ s.regs.tcCfg.maxlen.toNat → flen ≤ 1024 → s.base + flen ≤ s.params.bufSize →
      exec (.tcmk vcid plen) s = .next ((s.zeroFill s.base flen).tcLatch
        { base := BitVec.ofNat 17 s.base, flen := BitVec.ofNat 11 flen, vcid := vcid, crc := s.regs.cfg.tcCrc
          dstart := 5#11, dend := BitVec.ofNat 11 (5 + plen.toNat) }).done) := by
  intro flen
  rcases execTcmk_cases vcid plen s with ⟨hlong, e⟩ | ⟨hmax, hlim, hout, e⟩ | ⟨hmax, hlim, hin, e⟩
  · exact ⟨fun _ => e, fun _ _ => by omega, fun _ _ => by omega⟩
  · exact ⟨fun _ => by omega, fun _ _ _ => e, fun _ _ hin => absurd hin hout.not_ge⟩
  · exact ⟨fun _ => by omega, fun _ _ hout => absurd hin hout.not_ge, fun _ _ _ => e⟩

/-- A word of format `M` with a must-be-zero bit ends with E_ILLCMD (30_encoding.md R94). -/
theorem runCommand_of_malformedTcmk {w : Word} (hop : w.toNat / 2 ^ 24 = 0x40)
    (hw : w.toNat % 2 ^ 24 / 2 ^ 16 ≠ 0) (s : State) : runCommand w s = .next (afterIllegalWord s) := by
  have hill : IllegalWord w := .inr (.inr (.inr ⟨hop, hw⟩))
  rw [runCommand_of_illegalWord hill, raise_illCmd]

/-- Settles O38: the three endings of `exec_tcmk`; the frame's bytes are those of the zero fill. -/
theorem tcmkMakesAZeroedFrameOrNone : Obligations.TcmkMakesAZeroedFrameOrNone := by
  unfold Obligations.TcmkMakesAZeroedFrameOrNone
  refine ⟨fun vcid plen => decode_eq_ok_iff.2 ⟨rfl, encode_tcmk vcid plen⟩,
    fun s w hop hw => runCommand_of_malformedTcmk hop hw s, fun s vcid plen => ?_⟩
  intro o flen
  obtain ⟨htooLong, hbounds, hmade⟩ := exec_tcmk vcid plen s
  refine ⟨fun hlong => ?_, fun hmax hlim hout => ?_, fun hmax hlim hin => ⟨_, hmade hmax hlim hin, fun a => ?_, ?_⟩⟩
  · rw [htooLong hlong, raise_of_not_corrupt (by decide)]
    rfl
  · rw [hbounds hmax hlim hout, raise_bounds]
    rfl
  · rw [done_byteAt, tcLatch_byteAt]
    exact byteAt_zeroFill s o flen a hin
  · simp [State.done, State.tcLatch, State.base, tcmkLength, tcHdrLen, o, flen]

/-! ## The bytes TCENC writes (R194) -/

/-- The CRC-16 trailer of the TC frame: over its new header and the data zone as it stands (30_encoding.md R114,
R115). -/
abbrev tcTrailerOf (s : State) : List Byte :=
  wireBytes 2 (crc16 (tcHeaderOf s ++ s.bytes (s.regs.tcf.base.toNat + 5) (s.regs.tcf.flen.toNat - 7)))

/-- Writing the trailer is one `MemWrite`. -/
theorem tcTrailer_of_crc {s : State} (hcrc : s.regs.tcf.crc = true) :
    tcTrailer s = s.memWrite (s.regs.tcf.base.toNat + s.regs.tcf.flen.toNat - 2) 2
      (crc16 (s.bytes s.regs.tcf.base.toNat (s.regs.tcf.flen.toNat - 2))).toNat :=
  if_pos hcrc

theorem tcTrailer_of_not_crc {s : State} (hcrc : s.regs.tcf.crc ≠ true) : tcTrailer s = s := if_neg hcrc

/-- The bytes before the trailer once the header is written: what the trailer's CRC covers. -/
theorem bytes_tcHeader_before_trailer {s : State} (hlen : 7 ≤ s.regs.tcf.flen.toNat)
    (hin : s.regs.tcf.base.toNat + s.regs.tcf.flen.toNat ≤ s.params.bufSize) :
    (tcHeader s).bytes s.regs.tcf.base.toNat (s.regs.tcf.flen.toNat - 2) =
      tcHeaderOf s ++ s.bytes (s.regs.tcf.base.toNat + 5) (s.regs.tcf.flen.toNat - 7) := by
  rw [show s.regs.tcf.flen.toNat - 2 = 5 + (s.regs.tcf.flen.toNat - 7) by omega]
  exact bytes_tcHeader s _ (by omega)

/-- What writing the trailer after the header does to every byte. -/
theorem byteAt_tcTrailer_tcHeader {s : State} (h : tcFrameInside s) (a : Nat) :
    let o := s.regs.tcf.base.toNat
    let flen := s.regs.tcf.flen.toNat
    (tcTrailer (tcHeader s)).byteAt a =
      if s.regs.tcf.crc = true ∧ o + flen - 2 ≤ a ∧ a < o + flen then (tcTrailerOf s).getD (a - (o + flen - 2)) 0#8
      else (tcHeader s).byteAt a := by
  intro o flen
  obtain ⟨hin, hroom⟩ := h
  by_cases hcrc : s.regs.tcf.crc = true
  · have hlen : 7 ≤ flen := by rwa [hcrc] at hroom
    have hend : o + flen - 2 + 2 = o + flen := by omega
    rw [tcTrailer_of_crc (by rwa [tcHeader_regs]), tcHeader_regs, bytes_tcHeader_before_trailer hlen (by omega),
      byteAt_memWrite_wireBytes (n := 2) (by rw [tcHeader_params]; omega), hend]
    exact if_congr (and_iff_right hcrc).symm rfl rfl
  · rw [tcTrailer_of_not_crc (by rwa [tcHeader_regs]), if_neg (fun hr => hcrc hr.1)]

/-- What TCENC does to every byte: header, trailer if there is one, and no other byte. -/
theorem byteAt_encoded {s : State} (h : tcFrameInside s) (a : Nat) :
    let o := s.regs.tcf.base.toNat
    let flen := s.regs.tcf.flen.toNat
    (tcTrailer (tcHeader s)).byteAt a =
      if o ≤ a ∧ a < o + 5 then (tcHeaderOf s).getD (a - o) 0#8
      else if s.regs.tcf.crc = true ∧ o + flen - 2 ≤ a ∧ a < o + flen then (tcTrailerOf s).getD (a - (o + flen - 2)) 0#8
      else s.byteAt a := by
  intro o flen
  have ⟨hin, hroom⟩ := h
  rw [byteAt_tcTrailer_tcHeader h a, byteAt_tcHeader s a (by rw [tcHdrLen] at hroom; omega)]
  by_cases hhdr : o ≤ a ∧ a < o + 5
  · have htrailer : ¬ (s.regs.tcf.crc = true ∧ o + flen - 2 ≤ a ∧ a < o + flen) := by
      rintro ⟨hcrc, hlo, -⟩
      have hlen : 7 ≤ flen := by rwa [hcrc] at hroom
      omega
    rw [if_neg htrailer, if_pos hhdr, if_pos hhdr]
  · rw [if_neg hhdr, if_neg hhdr]

/-! ## TCENC (R194) -/

/-- `execTcenc_cases` by the descriptor: which ending TCENC has. -/
theorem exec_tcenc (s : State) :
    (s.regs.status.tcvalid = false → exec .tcenc s = .next (s.raise .noFrame)) ∧
    (s.regs.status.tcvalid = true → s.regs.tcCfg.maxlen.toNat < s.regs.tcf.flen.toNat →
      exec .tcenc s = .next (s.raise .tooLong)) ∧
    (s.regs.status.tcvalid = true → s.regs.tcf.flen.toNat ≤ s.regs.tcCfg.maxlen.toNat → tcFrameInside s →
      exec .tcenc s = .next (tcTrailer (tcHeader s)).done) := by
  rcases execTcenc_cases s with ⟨hv, e⟩ | ⟨hv, hlong, e⟩ | ⟨hv, hmax, hout, -⟩ | ⟨hv, hmax, -, e⟩ <;> rw [hv]
  · exact ⟨fun _ => e, nofun, nofun⟩
  · exact ⟨nofun, fun _ _ => e, fun _ hmax => absurd hmax hlong.not_ge⟩
  · exact ⟨nofun, fun _ hlong => absurd hmax hlong.not_ge, fun _ _ hin => absurd hin hout⟩
  · exact ⟨nofun, fun _ hlong => absurd hmax hlong.not_ge, fun _ _ _ => e⟩

/-- Settles O39: the three endings of `exec_tcenc`; the frame's bytes are those of `byteAt_encoded`. -/
theorem tcencWritesHeaderAndTrailer : Obligations.TcencWritesHeaderAndTrailer := by
  unfold Obligations.TcencWritesHeaderAndTrailer
  refine ⟨decode_eq_ok_iff.2 ⟨rfl, rfl⟩, fun s => ?_⟩
  intro o flen hdr trailer
  obtain ⟨hnoFrame, htooLong, hencoded⟩ := exec_tcenc s
  refine ⟨fun hv => ?_, fun hv hlong => ?_, fun hv hmax hin hroom => ?_⟩
  · rw [hnoFrame hv, raise_of_not_corrupt (by decide)]
    rfl
  · rw [htooLong hv hlong, raise_of_not_corrupt (by decide)]
    rfl
  · have hinside : tcFrameInside s := ⟨hin.not_gt, hroom⟩
    refine ⟨_, hencoded hv hmax hinside, fun a => ?_, by simp [State.done]⟩
    rw [done_byteAt]
    exact byteAt_encoded hinside a

/-! ## TCENC and then CHK16 (R195 (g)) -/

/-- The trailer just written is the CRC-16 of the bytes before it, which it leaves as they are. -/
theorem memRead_tcTrailer {s : State} (hcrc : s.regs.tcf.crc = true) (hlen : 2 ≤ s.regs.tcf.flen.toNat)
    (hin : s.regs.tcf.base.toNat + s.regs.tcf.flen.toNat ≤ s.params.bufSize) :
    (tcTrailer s).memRead (s.regs.tcf.base.toNat + s.regs.tcf.flen.toNat - 2) 2 =
      (crc16 ((tcTrailer s).bytes s.regs.tcf.base.toNat (s.regs.tcf.flen.toNat - 2))).toNat := by
  have hfield : s.regs.tcf.base.toNat + s.regs.tcf.flen.toNat - 2 + 2 ≤ s.params.bufSize := by omega
  have hbody : (tcTrailer s).bytes s.regs.tcf.base.toNat (s.regs.tcf.flen.toNat - 2) =
      s.bytes s.regs.tcf.base.toNat (s.regs.tcf.flen.toNat - 2) := by
    refine bytes_congr fun i hi => ?_
    rw [tcTrailer_of_crc hcrc, byteAt_memWrite _ _ _ _ _ hfield, if_neg (by omega)]
  rw [hbody, tcTrailer_of_crc hcrc, memRead_memWrite hfield]
  exact Nat.mod_eq_of_lt (BitVec.isLt _)

/-- CHK16 passes on a region that ends with its CRC-16 (40_crc.md R138). -/
theorem chk16_passes {s : State} (hin : s.base + s.length ≤ s.params.bufSize) (hlen : 2 ≤ s.length)
    (hfield : s.memRead (s.base + s.length - 2) 2 = (crc16 (s.bytes s.base (s.length - 2))).toNat) :
    ∃ u, exec .chk16 s = .next u ∧ u.regs.status.err = 0#4 ∧ u.regs.rCrc = u.regs.rCrcRx := by
  obtain ⟨-, -, -, hpass⟩ := exec_of_checkCrc (exec_chk16 s)
  have hequal : 0#16 ++ crc16 (s.bytes s.base (s.length - 2)) =
      BitVec.ofNat 32 (bigEndian (s.bytes (s.base + s.length - 2) 2)) := by
    rw [bigEndian_bytes, hfield, BitVec.ofNat_toNat]
    exact (congrFun setWidth_crc16 _).symm
  exact ⟨_, hpass hin hlen hequal, rfl, hequal⟩

/-- The host names a region: `OFF` and `LEN` written, nothing else (10_state.md R29, R30). -/
def State.withRegion (s : State) (off len : Word) : State := { s with regs := { s.regs with off := off, len := len } }

@[simp] theorem withRegion_params (s : State) (off len : Word) : (s.withRegion off len).params = s.params := rfl
@[simp] theorem withRegion_base (s : State) (off len : Word) : (s.withRegion off len).base = off.toNat := rfl
@[simp] theorem withRegion_length (s : State) (off len : Word) : (s.withRegion off len).length = len.toNat := rfl

@[simp] theorem withRegion_memRead (s : State) (off len : Word) (a n : Nat) :
    (s.withRegion off len).memRead a n = s.memRead a n :=
  memRead_congr fun _ _ => rfl

@[simp] theorem withRegion_bytes (s : State) (off len : Word) (a n : Nat) :
    (s.withRegion off len).bytes a n = s.bytes a n :=
  bytes_congr fun _ _ => rfl

@[simp] theorem done_bytes (s : State) (a n : Nat) : s.done.bytes a n = s.bytes a n := bytes_congr fun _ _ => rfl

/-- Settles O41: TCENC ends with `tcTrailer`, and what that leaves is what `chk16_passes` asks for. -/
theorem encodedTcFramePassesChk16 : Obligations.EncodedTcFramePassesChk16 := by
  unfold Obligations.EncodedTcFramePassesChk16
  intro s hv hcrc hmax hlen hin
  obtain ⟨-, -, hencoded⟩ := exec_tcenc s
  have hinside : tcFrameInside s := ⟨hin.not_gt, by rw [hcrc]; exact hlen⟩
  have htrailer := memRead_tcTrailer (s := tcHeader s) (by rwa [tcHeader_regs]) (by rw [tcHeader_regs]; omega)
    (by rwa [tcHeader_regs, tcHeader_params])
  rw [tcHeader_regs] at htrailer
  have hoff : (0#15 ++ s.regs.tcf.base : Word).toNat = s.regs.tcf.base.toNat := toNat_zero_append 15 _
  have hlength : (0#21 ++ s.regs.tcf.flen : Word).toNat = s.regs.tcf.flen.toNat := toNat_zero_append 21 _
  obtain ⟨u, hchk, herr, hsame⟩ :=
    chk16_passes (s := (tcTrailer (tcHeader s)).done.withRegion (0#15 ++ s.regs.tcf.base) (0#21 ++ s.regs.tcf.flen))
      (by simpa [hoff, hlength] using hin) (by rw [withRegion_length, hlength]; omega)
      (by simpa [hoff, hlength] using htrailer)
  exact ⟨_, u, hencoded hv hmax hinside, hchk, herr, hsame⟩

end Sys2Proof.Machine
end

section
/-! PROOFS of the statements of 44_system.md: NOP, CLRERR and SRST. -/

namespace Sys2Proof.Machine

open Sys2Proof.Claims

/-! ## The words of the bare commands (30_encoding.md R91, R94) -/

/-- A word of a bare format with a must-be-zero bit ends with E_ILLCMD. -/
theorem runCommand_of_malformedBare {w : Word}
    (hop : w.toNat / 2 ^ 24 ∈ [0x00, 0x01, 0x02, 0x41, 0x10, 0x11, 0x12, 0x13, 0x30, 0x31, 0x32])
    (hw : w.toNat % 2 ^ 24 ≠ 0) (s : State) : runCommand w s = .next (afterIllegalWord s) := by
  have hill : IllegalWord w := .inr (.inl ⟨hop, hw⟩)
  rw [runCommand_of_illegalWord hill, raise_illCmd]

/-! ## What the three commands do (R205, R207, R209) -/

theorem exec_nop (s : State) : exec .nop s = .next s.done := rfl

theorem exec_clrerr (s : State) :
    exec .clrerr s = .next ({ s with regs := { s.regs with errFlags := 0#7 } } : State).done := rfl

theorem exec_srst (s : State) : exec .srst s = .next s.softReset.done := rfl

/-- The completion of SRST writes the two error fields with the value the reset gave them. -/
theorem done_softReset (s : State) : s.softReset.done = s.softReset := rfl

/-- Settles O13: NOP is nothing but its completion `State.done`. -/
theorem nopOnlyClearsTheErrorFields : Obligations.NopOnlyClearsTheErrorFields := by
  unfold Obligations.NopOnlyClearsTheErrorFields
  exact ⟨decode_eq_ok_iff.2 ⟨rfl, rfl⟩,
    fun s w hop hw => runCommand_of_malformedBare (by rw [hop]; decide) hw s, exec_nop⟩

/-- Settles O14: before its completion CLRERR writes `ERRFLAGS` alone. -/
theorem clrerrClearsOnlyTheStickyFlags : Obligations.ClrerrClearsOnlyTheStickyFlags := by
  unfold Obligations.ClrerrClearsOnlyTheStickyFlags
  exact ⟨decode_eq_ok_iff.2 ⟨rfl, rfl⟩,
    fun s w hop hw => runCommand_of_malformedBare (by rw [hop]; decide) hw s, exec_clrerr⟩

/-- Settles O15: SRST ends in the soft reset itself (`done_softReset`), which resets the registers and no other field. -/
theorem srstClearsEveryRegisterAndKeepsTheBuffer : Obligations.SrstClearsEveryRegisterAndKeepsTheBuffer := by
  unfold Obligations.SrstClearsEveryRegisterAndKeepsTheBuffer
  refine ⟨decode_eq_ok_iff.2 ⟨rfl, rfl⟩,
    fun s w hop hw => runCommand_of_malformedBare (by rw [hop]; decide) hw s, fun s => ⟨s.softReset, ?_⟩⟩
  have hexec : exec .srst s = .next s.softReset := by rw [exec_srst, done_softReset]
  have hregs : s.softReset.regs = s.hardReset.regs := by rw [softReset_regs, hardReset_regs]
  exact ⟨hexec, regRead_reset _ (softReset_regs s), hregs, softReset_byteAt s, softReset_buf s, softReset_params s,
    softReset_epoch s, softReset_inputs s, softReset_replies s⟩

end Sys2Proof.Machine
end

section
/-! PROOFS of the statements of 60_exceptions.md: what completes nothing. -/

namespace Sys2Proof.Machine

/-- Settles O11, by the four accesses of 20_memory.md R61 (`hostAccess_completes_nothing`): a register write that is
no `CMD` write is `regStore`, which stores into no status register. -/
theorem accessesOtherThanCmdWritesCompleteNothing : Obligations.AccessesOtherThanCmdWritesCompleteNothing := by
  unfold Obligations.AccessesOtherThanCmdWritesCompleteNothing
  intro s a ha
  exact hostAccess_completes_nothing ha s

end Sys2Proof.Machine
end

section
/-! PROOFS of the statements of 70_reset_and_hazards.md: every step from the invariant goes on, and what the first
command after reset gives. -/

namespace Sys2Proof.Machine

open Sys2Proof.Laws Sys2Proof.Claims

/-! ## Steps from the invariant (R263; 60_exceptions.md R229) -/

/-- Every command goes on from a state whose TC descriptor R48 allows: TCENC alone could stop. -/
theorem exec_next_of_descriptorInv {s : State} (h : DescriptorInv s.params s.regs) (i : Instr) :
    ∃ t, exec i s = .next t := by
  rcases onlyTcencOnABrokenDescriptorStops.1 i s with hnext | ⟨-, -, hbroken⟩
  · exact hnext
  · exact absurd h hbroken

theorem runCommand_next_of_descriptorInv {s : State} (h : DescriptorInv s.params s.regs) (w : Word) :
    ∃ t, runCommand w s = .next t := by
  rcases runCommand_cases w s with ⟨i, -, e⟩ | ⟨r, -, e⟩ <;> rw [e]
  · exact exec_next_of_descriptorInv h i
  · exact ⟨_, rfl⟩

/-- Settles O51, by the cases of a step: only a command could stop, and the invariant holds of the descriptor it
meets. -/
theorem stepsFromTheInvariantAreSafe : Obligations.StepsFromTheInvariantAreSafe := by
  unfold Obligations.StepsFromTheInvariantAreSafe
  intro s hs
  obtain ⟨-, -, -, hd, -⟩ := hs
  rcases step_cases s with ⟨-, e⟩ | ⟨w, rest, -, e⟩ | ⟨f, v, rest, -, -, e⟩ | ⟨j, v, rest, -, e⟩ |
    ⟨a, r, rest, -, e⟩ | ⟨rest, -, e⟩
  · exact ⟨_, e⟩
  · obtain ⟨t, hrun⟩ := runCommand_next_of_descriptorInv (s := { s with inputs := rest }) hd w
    exact ⟨t, e.trans hrun⟩
  · exact ⟨_, e⟩
  · exact ⟨_, e⟩
  · exact ⟨_, e⟩
  · exact ⟨_, e⟩

/-! ## The first command after reset (R254) -/

/-- A region of no bytes has the CRC-16 preset as its CRC (40_crc.md R130). -/
theorem crc16_nil : crc16 [] = 0xFFFF#16 := rfl

theorem exec_crc16_reset :
    exec .crc16 State.reset = .next (State.reset.setCrc 0x0000FFFF#32 0#32).done := by
  obtain ⟨hinside, -⟩ := exec_of_computeCrc (exec_crc16 State.reset)
  have hempty : State.reset.bytes State.reset.base State.reset.length = [] := rfl
  rw [hinside (by decide), hempty, crc16_nil]
  rfl

theorem exec_chk16_reset : exec .chk16 State.reset = .next (State.reset.raise (.corrupt .length)) := by
  obtain ⟨-, hshort, -⟩ := exec_of_checkCrc (exec_chk16 State.reset)
  exact hshort (by decide) (by decide)

/-- With `DL_FRAMELEN` 0 PTM has no configuration to parse with (42_parse.md R166). -/
theorem ptmOutcome_reset : ptmOutcome State.reset = (5, 0) := by
  have hed : State.reset.regs.cfg.dlErrdet ≠ 3#2 := by decide
  have hframelen : State.reset.regs.dlFramelen.toNat = 0 := rfl
  rw [ptmOutcome, if_neg hed, if_pos hframelen]

/-- PUSLP needs no configured length and finds a region too short for a header (42_parse.md R182). -/
theorem puslpOutcome_reset : puslpOutcome State.reset = (1, 1) := by
  have hed : State.reset.regs.cfg.dlErrdet ≠ 3#2 := by decide
  have hinside : ¬ State.reset.params.bufSize < State.reset.regs.off.toNat + State.reset.regs.len.toNat := by decide
  have hany : ¬ (State.reset.regs.dlFramelen.toNat ≠ 0 ∧
      State.reset.regs.len.toNat ≠ State.reset.regs.dlFramelen.toNat) := by decide
  have hshort : State.reset.regs.len.toNat < 4 := by decide
  rw [puslpOutcome, if_neg hed, if_neg hinside, if_neg hany, if_pos hshort]

/-- `TC_MAXLEN` is 0, so no frame is short enough (43_tcenc.md R191). -/
theorem exec_tcmk_reset (vcid : BitVec 6) :
    exec (.tcmk vcid 0#10) State.reset = .next (State.reset.tcInvalidate.raise .tooLong) := by
  obtain ⟨htooLong, -⟩ := exec_tcmk vcid 0#10 State.reset
  exact htooLong (.inl (by decide))

theorem exec_tcenc_reset : exec .tcenc State.reset = .next (State.reset.raise .noFrame) := by
  obtain ⟨hnoFrame, -⟩ := exec_tcenc State.reset
  exact hnoFrame rfl

theorem memRead_one (s : State) (a : Nat) : s.memRead a 1 = (s.byteAt a).toNat := by
  simp [State.memRead]

/-- RDBE 1 reads the free byte of index 0. -/
theorem exec_rdbe_reset :
    exec (.rdbe 1#4) State.reset = .next (State.reset.setVal (State.reset.byteAt 0).toNat).done := by
  obtain ⟨hinside, -⟩ := exec_rdbe (n := 1#4) ⟨by decide, by decide⟩ State.reset
  rw [hinside (by decide)]
  exact congrArg (fun v => Host.Outcome.next (State.reset.setVal v).done) (memRead_one State.reset 0)

/-- A byte as the low half of `VAL`. -/
theorem setVal_byte_valLo (s : State) (b : Byte) : (s.setVal b.toNat).regs.valLo = 0#24 ++ b := by
  have hb := b.isLt
  rw [toNat_eq_iff, toNat_zero_append]
  simp only [State.setVal, BitVec.toNat_ofNat]
  omega

/-- Settles O55: the reset state satisfies the invariant, so any command goes on from it; each example is the ending
that its command's rule gives there. -/
theorem firstCommandAfterReset : Obligations.FirstCommandAfterReset := by
  unfold Obligations.FirstCommandAfterReset
  have hptm := ptmReportsTheFirstFailingCheck State.reset
  have hpuslp := puslpReportsTheFirstFailingCheck State.reset
  rw [ptmOutcome_reset] at hptm
  rw [puslpOutcome_reset] at hpuslp
  obtain ⟨-, -, -, hdescriptor, -⟩ := invariantHoldsAtReset
  exact ⟨exec_next_of_descriptorInv hdescriptor, ⟨_, exec_nop _, rfl, rfl⟩, ⟨_, exec_crc16_reset, rfl, rfl⟩,
    ⟨_, exec_chk16_reset, rfl, rfl, rfl⟩, hptm, hpuslp, ⟨_, exec_tcmk_reset 0#6, rfl, rfl⟩,
    ⟨_, exec_tcenc_reset, rfl, rfl⟩, ⟨_, exec_rdbe_reset, rfl, setVal_byte_valLo _ _⟩⟩

end Sys2Proof.Machine
end
